-- ==== Sys2Proof/Word.lean ====
section
/-! DEFINITION. The plain value types of the codec: bytes, pixels and port words (00_scope.md R8, R10; 10_state.md R25). -/

namespace Sys2Proof

/-- A byte, bit 7 the most significant (R8). -/
abbrev Byte := BitVec 8

/-- A pixel, four 8-bit channels, always semantically r, g, b, a (R10). Equality is equality of all four. -/
structure Pixel where
  r : Byte
  g : Byte
  b : Byte
  a : Byte
deriving DecidableEq, Repr, Inhabited

/-- A port word: four byte lanes, lane 0 the lowest addressed when the host stores it (R25). -/
structure Lanes where
  lane0 : Byte
  lane1 : Byte
  lane2 : Byte
  lane3 : Byte
deriving DecidableEq, Repr, Inhabited

/-- A word of the host bus. DESIGN CHOICE: 64 bits, the least that moves every interface register in one access (R31);
the spec leaves the width to `BUS_MAP`, "a wider word" than the four lanes (R71, D3; log 22). -/
abbrev BusWord := BitVec 64

/-- `ZERO`, the cache sentinel (R6). -/
def Pixel.zero : Pixel := ⟨0, 0, 0, 0⟩

/-- `INIT_PREV`, the previous pixel before the first (R6). -/
def Pixel.initPrev : Pixel := ⟨0, 0, 0, 255⟩

end Sys2Proof
end

