-- ==== Sys2Proof/Config.lean ====
section
/-! DEFINITION. What one build of the codec fixes, and the free values: constants that nothing constrains
(00_scope.md R6; 10_state.md R25, R47; 93_implementation_defined.md I3, I8, I9). -/

namespace Sys2Proof

/-- A channel ordering of a pixel port, named lane 0 first (R25). The spec names the first four and lets the
domain hold more (R25, I8); every order of the four channels is here (log 9). -/
inductive PixelOrder where
  | rgba | argb | bgra | abgr
  | rgab | rbga | rbag | ragb | rabg
  | grba | grab | gbra | gbar | garb | gabr
  | brga | brag | bgar | barg | bagr
  | arbg | agrb | agbr | abrg
deriving DecidableEq, Repr, Inhabited

/-- What a bus address stands for under `BUS_MAP` (R6, R75: how interface registers and stream ports attach to a host
bus): a register by its number within its engine (R31, R38), a port of R24, or nothing. -/
inductive BusAttach where
  | encRegister (no : Nat)
  | decRegister (no : Nat)
  /-- The ENC pixel input. -/
  | encPixelPort
  /-- The DEC byte input. -/
  | decBytePort
  /-- The end of the DEC byte input, `DEC_EOS`. -/
  | decEosInput
  /-- The byte stream `OUT`, ENC to host. -/
  | outPort
  /-- The pixel stream `POUT`, DEC to host. -/
  | poutPort
  | encStartInput
  | encIoErrInput
  | decStartInput
  | decIoErrInput
  | unattached
deriving DecidableEq, Repr, Inhabited

/-- Which way a bus access moves its word. -/
inductive BusDir where
  | write
  | read
deriving DecidableEq, Repr

namespace Config

/-- `PIXEL_ORDER_ENC`, the ordering of the ENC pixel input port: a build-time parameter (R6, R25, I8). -/
opaque pixelOrderEnc : PixelOrder

/-- `PIXEL_ORDER_DEC`, the ordering of the DEC pixel output port: a build-time parameter (R6, R25, I8). -/
opaque pixelOrderDec : PixelOrder

/-- `BUS_MAP`, what each bus address stands for when written and when read (R6, R31, R38, R75, I9; log 10). The two may
differ, so an input port and an output port can share an address. DESIGN CHOICE (log 24): the map goes from addresses,
and an address stands for at most one thing in each direction, the same at every access. -/
opaque busMap : BusDir → Nat → BusAttach

/-- `BUS_MAP`, how the four pixel lanes are packed into a bus word, host to ENC: the lanes a written word carries
(R71, D3, I9). The word's 64 bits are the model's choice (log 22); the packing itself is open (log 10). -/
opaque busLanes : BusWord → Lanes

/-- `BUS_MAP`, how the four pixel lanes are packed into a bus word, DEC to host: the word a read of `POUT` returns
(R71, D3, I9). The word's 64 bits are the model's choice (log 22); the packing itself is open (log 10). -/
opaque busWordOfLanes : Lanes → BusWord

/-- `BUS_MAP`, the byte a bus word written to the DEC byte input carries (R6, D3; logs 10, 22). -/
opaque busByte : BusWord → Byte

/-- `BUS_MAP`, the bus word a read of `OUT` returns for a byte (R6, D3; logs 10, 22). -/
opaque busWordOfByte : Byte → BusWord

/-- FREE VALUE. What the k-th reset event leaves in `E.prev` (R47, R240, I3: any value; log 7). -/
opaque resetEncPrev : Nat → Pixel

/-- FREE VALUE. What the k-th reset event leaves in `E.run` (R47, R240, I3: any value; log 7). -/
opaque resetEncRun : Nat → BitVec 6

/-- FREE VALUE. What the k-th reset event leaves in each slot of `E.cache` (R47, R240, I3: any value; log 7). -/
opaque resetEncSlot : Nat → BitVec 6 → Pixel

/-- FREE VALUE. What the k-th reset event leaves in `D.prev` (R47, R240, I3: any value; log 7). -/
opaque resetDecPrev : Nat → Pixel

/-- FREE VALUE. What the k-th reset event leaves in each slot of `D.cache` (R47, R240, I3: any value; log 7). -/
opaque resetDecSlot : Nat → BitVec 6 → Pixel

/-- FREE VALUE. What the k-th reset event leaves in `D.hbuf` (R47, R240, I3: any value; log 7). -/
opaque resetHbuf : Nat → Vector Byte 14

/-- FREE VALUE. What the k-th reset event leaves in `D.optag` (R47, R240, I3: any value; log 7). -/
opaque resetOptag : Nat → Byte

/-- FREE VALUE. What the k-th reset event leaves in `D.opbuf` (R47, R240, I3: any value; log 7). -/
opaque resetOpbuf : Nat → Vector Byte 4

end Config

end Sys2Proof
end

