-- ==== Sys2Proof/Syntax.lean ====
section
/-! DEFINITION. The op set of the stream (00_scope.md R2; 30_encoding.md R94 to R100): one constructor per row of the opcode table. -/

namespace Sys2Proof

/-- An op of the stream. Fields hold the encoded (biased) values of 30_encoding.md R101. -/
inductive Instr where
  /-- RGB, R94: raw r, g, b; alpha is the previous pixel's. -/
  | rgb (r g b : Byte)
  /-- RGBA, R95: raw r, g, b, a. -/
  | rgba (r g b a : Byte)
  /-- RUN, R96: `n` is the run length less 1. -/
  | run (n : BitVec 6)
  /-- INDEX, R97: `i` is the cache slot. -/
  | index (i : BitVec 6)
  /-- DIFF, R98: each field is its delta plus 2. -/
  | diff (rr gg bb : BitVec 2)
  /-- LUMA, R99: `dg` plus 32, and the two green-relative deltas plus 8. -/
  | luma (gg : BitVec 6) (xx yy : BitVec 4)
  /-- END, R100: the first byte `00` with the seven bytes that follow it; the end marker is the one whose
  seven bytes are `00` six times and `01`, and any other is cut short by `MissingEndBytes` (R183). -/
  | endMarker (b1 b2 b3 b4 b5 b6 b7 : Byte)
deriving DecidableEq, Repr

/-- The end marker of every stream (R100). -/
def Instr.theEnd : Instr := .endMarker 0 0 0 0 0 0 1

/-- Whether the op is an END row, which only a decoder at its target reads (R92). -/
def Instr.isEnd : Instr → Bool
  | .endMarker _ _ _ _ _ _ _ => true
  | .rgb _ _ _ => false
  | .rgba _ _ _ _ => false
  | .run _ => false
  | .index _ => false
  | .diff _ _ _ => false
  | .luma _ _ _ => false

end Sys2Proof
end

