-- ==== Sys2Proof/WellFormed.lean ====
section
/-! DEFINITION. Which ops exist: RUN payloads 62 and 63 do not (30_encoding.md R96, R103), and the end marker is one word (R100). -/

namespace Sys2Proof

/-- The op exists as the table gives it. Every operand value of the other ops is meaningful (R104). -/
def Instr.wf : Instr → Bool
  | .rgb _ _ _ => true
  | .rgba _ _ _ _ => true
  | .run n => decide (n.toNat ≤ 61)
  | .index _ => true
  | .diff _ _ _ => true
  | .luma _ _ _ => true
  | .endMarker b1 b2 b3 b4 b5 b6 b7 =>
    decide (b1 = 0) && decide (b2 = 0) && decide (b3 = 0) && decide (b4 = 0) && decide (b5 = 0) && decide (b6 = 0)
      && decide (b7 = 1)

end Sys2Proof
end

