-- ==== Sys2Proof/Decode.lean ====
section
/-! DEFINITION. The stream's decoder and encoder (30_encoding.md R92 to R102): bytes to ops, and ops to bytes. -/

namespace Sys2Proof

/-- The op a first byte names (R102). -/
inductive OpName where
  | rgb
  | rgba
  | run
  | index
  | diff
  | luma
  | endMarker
deriving DecidableEq, Repr

/-- Why bytes are no op yet: every first byte names one (R102), so only bytes that are missing. -/
inductive DecodeError where
  /-- No first byte. -/
  | noByte
  /-- The named op's operand bytes are not all there. -/
  | operandsMissing (op : OpName)
deriving DecidableEq, Repr

/-- The 2-bit tag, bits 7:6 (R13). -/
def tagOf (b : Byte) : BitVec 2 := b.extractLsb' 6 2

/-- The 6-bit payload, bits 5:0 (R13). -/
def payloadOf (b : Byte) : BitVec 6 := b.extractLsb' 0 6

/-- DIFF's fields, dr in bits 5:4, dg in 3:2, db in 1:0 (R98). -/
def diffR (b : Byte) : BitVec 2 := b.extractLsb' 4 2
def diffG (b : Byte) : BitVec 2 := b.extractLsb' 2 2
def diffB (b : Byte) : BitVec 2 := b.extractLsb' 0 2

/-- LUMA's second byte, the high and the low nibble (R99). -/
def highNibble (b : Byte) : BitVec 4 := b.extractLsb' 4 4
def lowNibble (b : Byte) : BitVec 4 := b.extractLsb' 0 4

/-- The first-byte decode, in the priority of R93; `00` is END only at the target (R92, R100). -/
def opOf (atTarget : Bool) (b : Byte) : OpName :=
  if b = 0xFE#8 then .rgb
  else if b = 0xFF#8 then .rgba
  else if tagOf b = 0b11#2 then .run
  else if tagOf b = 0b00#2 then (if atTarget && decide (b = 0#8) then .endMarker else .index)
  else if tagOf b = 0b01#2 then .diff
  else .luma

/-- The length in bytes of the op a first byte names (R92). -/
def OpName.length : OpName → Nat
  | .rgb => 4
  | .rgba => 5
  | .run => 1
  | .index => 1
  | .diff => 1
  | .luma => 2
  | .endMarker => 8

/-- The op at the head of a byte sequence, with the bytes after it. `atTarget` says whether the pixel count has
reached the target (R92). -/
def decode (atTarget : Bool) : List Byte → Except DecodeError (Instr × List Byte)
  | [] => .error .noByte
  | b :: bs =>
    match opOf atTarget b, bs with
    | .rgb, r :: g :: c :: rest => .ok (.rgb r g c, rest)
    | .rgb, _ => .error (.operandsMissing .rgb)
    | .rgba, r :: g :: c :: a :: rest => .ok (.rgba r g c a, rest)
    | .rgba, _ => .error (.operandsMissing .rgba)
    | .run, rest => .ok (.run (payloadOf b), rest)
    | .index, rest => .ok (.index (payloadOf b), rest)
    | .diff, rest => .ok (.diff (diffR b) (diffG b) (diffB b), rest)
    | .luma, c :: rest => .ok (.luma (payloadOf b) (highNibble c) (lowNibble c), rest)
    | .luma, _ => .error (.operandsMissing .luma)
    | .endMarker, b1 :: b2 :: b3 :: b4 :: b5 :: b6 :: b7 :: rest => .ok (.endMarker b1 b2 b3 b4 b5 b6 b7, rest)
    | .endMarker, _ => .error (.operandsMissing .endMarker)

/-- The bytes of an op, in stream order (R70, R94 to R101). -/
def encode : Instr → List Byte
  | .rgb r g b => [0xFE#8, r, g, b]
  | .rgba r g b a => [0xFF#8, r, g, b, a]
  | .run n => [0b11#2 ++ n]
  | .index i => [0b00#2 ++ i]
  | .diff rr gg bb => [0b01#2 ++ rr ++ gg ++ bb]
  | .luma gg xx yy => [0b10#2 ++ gg, xx ++ yy]
  | .endMarker b1 b2 b3 b4 b5 b6 b7 => [0#8, b1, b2, b3, b4, b5, b6, b7]

/-- The pseudo-op `REPEAT n` (R107): full runs of 62, and one run of what is left. -/
def repeatOp (n : Nat) : List Instr :=
  List.replicate ((n - 1) / 62) (.run 61) ++ [.run (BitVec.ofNat 6 (n - 62 * ((n - 1) / 62) - 1))]

/-- The first `k` bytes of a number, the least significant first. -/
def bytesOfNat : Nat → Nat → List Byte
  | 0, _ => []
  | k + 1, w => BitVec.ofNat 8 w :: bytesOfNat k (w / 256)

/-- The bytes of a table word: the first byte is the lowest, and bytes above `nbits` are 0, up to the longest op. -/
def tableBytes (nbits w : Nat) : List Byte := bytesOfNat 8 (w % 2 ^ nbits)

/-- Whether a table word is read at the target: the one row of 64 bits is END (log 5). -/
def tableAtTarget (nbits : Nat) : Bool := decide (64 ≤ nbits)

/-- The op the decoder reads from a word of the opcode table. -/
def decodeTableWord (nbits w : Nat) : Option Instr :=
  match decode (tableAtTarget nbits) (tableBytes nbits w) with
  | .ok (i, _) => some i
  | .error _ => none

end Sys2Proof
end

