-- ==== Sys2Proof/Machine/State.lean ====
section
/-! DEFINITION. The machine's state, the host's events, the ways a step can stop, and the state after reset
(10_state.md R20 to R48; 60_exceptions.md R210, R226; 70_reset_and_hazards.md R240). -/

namespace Sys2Proof.Machine

/-- `ENC_STATE` (R26). Values 4 to 7 never occur and have no constructor (R33, I10). -/
inductive EncSt where
  /-- No encode has started since reset. -/
  | idle
  /-- Header emitted, pixels being accepted. -/
  | body
  /-- End marker emitted: `OUT` holds a complete stream. -/
  | done
  /-- The encode failed; `E.err` says why. -/
  | error
deriving DecidableEq, Repr

/-- `DEC_STATE` (R27). Values 5 to 7 never occur and have no constructor (R40, I10). -/
inductive DecSt where
  /-- No decode has started since reset. -/
  | idle
  | header
  | body
  /-- Terminal: end marker accepted. -/
  | ended
  /-- The decode failed; `D.err` says why. -/
  | error
deriving DecidableEq, Repr

/-- The error codes (R210). Codes 7 to 15 are never produced and have no constructor (I1). -/
inductive ErrCode where
  | none
  | dimensionsMismatchPixelsLength
  | invalidQOIHeader
  | invalidValueInHeader
  | readingMorePixels
  | missingEndBytes
  | ioError
deriving DecidableEq, Repr

/-- `D.op`, the multi-byte op whose bytes are still arriving (R23). -/
inductive PendingOp where
  | none
  | rgb
  | rgba
  | luma
  | endm
deriving DecidableEq, Repr

/-- A pixel cache, the codec's only addressable store (R45, R60, R68): (slot, pixel) pairs in canonical form, slots
strictly rising below 64 and no pixel `ZERO`. An unlisted slot reads `ZERO`, the value START gives every slot
(R48, R65; log 18). -/
abbrev Memory := List (Nat × Pixel)

/-- The encoder's interface registers by name (R31). -/
inductive EncReg where
  | ctrl | status | width | height | channels | colorspace | pixlen | count | outpos
deriving DecidableEq, Repr

/-- The decoder's interface registers by name (R38). -/
inductive DecReg where
  | ctrl | status | width | height | channels | colorspace | target | count | inpos
deriving DecidableEq, Repr

/-- What the host does to the machine, one event a step (R12, R44), the writes of interface registers among them
(R31 to R43). Register reads have no side effect (R43) and are functions of the state. -/
inductive Event where
  /-- `ENC_START` (R140). -/
  | encStart
  /-- `ENC_PIXEL(w)` (R142). -/
  | encPixel (w : Lanes)
  /-- `ENC_IOERR` (R156). -/
  | encIoErr
  /-- A write of an encoder register: 64 bits for a 64-bit register, the low 32 for a 32-bit one (R31, log 19). -/
  | encWrite (r : EncReg) (v : BitVec 64)
  /-- `DEC_START` (R170). -/
  | decStart
  /-- `DEC_BYTE(b)` (R122, R172). -/
  | decByte (b : Byte)
  /-- `DEC_EOS` (R127, R185). -/
  | decEos
  /-- `DEC_IOERR` (R186). -/
  | decIoErr
  /-- A write of a decoder register (R38). -/
  | decWrite (r : DecReg) (v : BitVec 64)
  /-- A reset, accepted in every state of both engines (R240). -/
  | reset
deriving DecidableEq, Repr

/-- Encoder state `E` (R22). -/
structure Enc where
  st : EncSt
  err : ErrCode
  prev : Pixel
  cache : Memory
  run : BitVec 6
  count : BitVec 64
  target : BitVec 64
  outpos : BitVec 64
  cfgWidth : BitVec 32
  cfgHeight : BitVec 32
  cfgChannels : BitVec 8
  cfgColorspace : BitVec 8
  cfgPixlen : BitVec 64
deriving DecidableEq, Repr

/-- Decoder state `D` (R23). -/
structure Dec where
  st : DecSt
  err : ErrCode
  hpos : Nat
  hbuf : Vector Byte 14
  width : BitVec 32
  height : BitVec 32
  channels : BitVec 8
  colorspace : BitVec 8
  prev : Pixel
  cache : Memory
  count : BitVec 64
  target : BitVec 64
  op : PendingOp
  optag : Byte
  opn : Nat
  opbuf : Vector Byte 4
  inpos : BitVec 64
deriving DecidableEq, Repr

/-- The whole machine: the two engines, which share nothing (R20), the two output streams (R24), the host's events
not yet taken, oldest first (R218, log 2), and the model's own count of reset events (log 7). -/
structure State where
  enc : Enc
  dec : Dec
  out : List Byte
  pout : List Lanes
  pending : List Event
  resets : Nat
deriving DecidableEq, Repr

/-- Why the machine cannot step. -/
inductive Fault where
  /-- Raised by `step` when no event is pending: an engine has no step of its own without an event (R250, I5, I6).
  Safe: the machine stops where the hardware waits (log 3). -/
  | noEvent
deriving DecidableEq, Repr

/-- What the spec gives no transition. -/
inductive Refusal where
  /-- Raised by `exec` for an op without a meaning. No op is left without one. Safe. -/
  | notModelled (mnemonic : String)
  /-- Raised by ENC_START in BODY (R44, R226, I4). Safe: the spec gives the event no transition. -/
  | encStartWhileBusy
  /-- Raised by ENC_START with channels or colorspace illegal (R140, R226, I2). Safe: no transition in the spec. -/
  | encStartIllegalTags
  /-- Raised by ENC_PIXEL outside BODY (R44, R157, R226, I4). Safe: no transition in the spec. -/
  | encPixelOutsideBody
  /-- Raised by DEC_START in HEADER or BODY (R44, R226, I4). Safe: no transition in the spec. -/
  | decStartWhileBusy
  /-- Raised by a step that would take `E.outpos` or `D.inpos` past 2^64 - 1 (R29, I7). Safe: outside the spec (log 11). -/
  | positionOverflow
  /-- Raised by the RUN row for payloads 62 and 63, which are no RUN ops (R96, R103). Safe: the decoder never makes
  them (log 16). -/
  | reservedRunPayload
deriving DecidableEq, Repr

/-- What one step answers. -/
abbrev Result := Host.Outcome State Fault Refusal

/-- The encoder after reset (R47). `prev`, `cache` and `run` are any value there: DESIGN CHOICE zero (log 6). -/
def Enc.reset : Enc where
  st := .idle
  err := .none
  prev := Pixel.zero
  cache := []
  run := 0
  count := 0
  target := 0
  outpos := 0
  cfgWidth := 0
  cfgHeight := 0
  cfgChannels := 0
  cfgColorspace := 0
  cfgPixlen := 0

/-- The decoder after reset (R47). `prev`, `cache`, `hbuf`, `optag` and `opbuf` are any value there:
DESIGN CHOICE zero (log 6). -/
def Dec.reset : Dec where
  st := .idle
  err := .none
  hpos := 0
  hbuf := Vector.replicate 14 0
  width := 0
  height := 0
  channels := 0
  colorspace := 0
  prev := Pixel.zero
  cache := []
  count := 0
  target := 0
  op := .none
  optag := 0
  opn := 0
  opbuf := Vector.replicate 4 0
  inpos := 0

/-- The machine right after reset (R47, R240): nothing emitted, nothing put, no event pending. -/
def State.reset : State where
  enc := Enc.reset
  dec := Dec.reset
  out := []
  pout := []
  pending := []
  resets := 0

end Sys2Proof.Machine
end

