-- ==== Sys2Proof/Machine/Operands.lean ====
section
/-! DEFINITION. Operand forms: the narrowing functions, the cache index, the pixel port lanes, the biased deltas of
DIFF and LUMA in both directions, and the header's integers (00_scope.md R9; 10_state.md R25; 20_memory.md R61, R69;
30_encoding.md R101). -/

namespace Sys2Proof.Machine

/-- `wrap8` (R9): an integer modulo 256. -/
def wrap8 (v : Int) : Byte := BitVec.ofInt 8 v

/-- `sext_8` (R9): the two's-complement reading of a byte, -128..127. -/
def sext8 (v : Byte) : Int := v.toInt

/-- `sdiff8` (R9): the signed 8-bit wraparound difference. -/
def sdiff8 (x y : Byte) : Int := sext8 (wrap8 ((x.toNat : Int) - (y.toNat : Int)))

/-- `hash(p)`, the cache index of a pixel (R61). -/
def pixelHash (p : Pixel) : BitVec 6 :=
  BitVec.ofNat 6 (p.r.toNat * 3 + p.g.toNat * 5 + p.b.toNat * 7 + p.a.toNat * 11)

/-- One of the four channels (R10). -/
inductive Channel where
  | r | g | b | a
deriving DecidableEq, Repr

/-- The channel in each lane of an ordering, lane 0 first (R25). -/
def laneChannels : PixelOrder → Channel × Channel × Channel × Channel
  | .rgba => (.r, .g, .b, .a)
  | .argb => (.a, .r, .g, .b)
  | .bgra => (.b, .g, .r, .a)
  | .abgr => (.a, .b, .g, .r)
  | .rgab => (.r, .g, .a, .b)
  | .rbga => (.r, .b, .g, .a)
  | .rbag => (.r, .b, .a, .g)
  | .ragb => (.r, .a, .g, .b)
  | .rabg => (.r, .a, .b, .g)
  | .grba => (.g, .r, .b, .a)
  | .grab => (.g, .r, .a, .b)
  | .gbra => (.g, .b, .r, .a)
  | .gbar => (.g, .b, .a, .r)
  | .garb => (.g, .a, .r, .b)
  | .gabr => (.g, .a, .b, .r)
  | .brga => (.b, .r, .g, .a)
  | .brag => (.b, .r, .a, .g)
  | .bgar => (.b, .g, .a, .r)
  | .barg => (.b, .a, .r, .g)
  | .bagr => (.b, .a, .g, .r)
  | .arbg => (.a, .r, .b, .g)
  | .agrb => (.a, .g, .r, .b)
  | .agbr => (.a, .g, .b, .r)
  | .abrg => (.a, .b, .r, .g)

/-- A channel of a pixel. -/
def channelOf (p : Pixel) : Channel → Byte
  | .r => p.r
  | .g => p.g
  | .b => p.b
  | .a => p.a

/-- The port word of a pixel, `lane(p, order)` (R25, R171). -/
def lane (o : PixelOrder) (p : Pixel) : Lanes :=
  ⟨channelOf p (laneChannels o).1, channelOf p (laneChannels o).2.1, channelOf p (laneChannels o).2.2.1,
    channelOf p (laneChannels o).2.2.2⟩

/-- The byte of the lane that holds a channel. -/
def laneOf (o : PixelOrder) (w : Lanes) (c : Channel) : Byte :=
  if (laneChannels o).1 = c then w.lane0
  else if (laneChannels o).2.1 = c then w.lane1
  else if (laneChannels o).2.2.1 = c then w.lane2
  else w.lane3

/-- The pixel of a port word, `unlane(w, order)` (R25, R142). -/
def unlane (o : PixelOrder) (w : Lanes) : Pixel :=
  ⟨laneOf o w .r, laneOf o w .g, laneOf o w .b, laneOf o w .a⟩

/-- An integer lies in `[lo, hi]`. -/
def within (lo hi v : Int) : Bool := decide (lo ≤ v) && decide (v ≤ hi)

/-- A delta with its bias, in a field of `n` bits (R101: the ranges keep every field in its width). -/
def biased (n : Nat) (bias v : Int) : BitVec n := BitVec.ofInt n (v + bias)

/-- A field's delta, its bias taken off (R101). -/
def unbiased {n : Nat} (bias : Int) (f : BitVec n) : Int := (f.toNat : Int) - bias

/-- A channel moved by a delta (R180, R182): the addition wraps. -/
def shiftBy (x : Byte) (d : Int) : Byte := wrap8 ((x.toNat : Int) + d)

/-- The pixel a DIFF op makes from the previous one (R180). -/
def diffPixel (q : Pixel) (rr gg bb : BitVec 2) : Pixel :=
  ⟨shiftBy q.r (unbiased 2 rr), shiftBy q.g (unbiased 2 gg), shiftBy q.b (unbiased 2 bb), q.a⟩

/-- The pixel a LUMA op makes from the previous one (R182). -/
def lumaPixel (q : Pixel) (gg : BitVec 6) (xx yy : BitVec 4) : Pixel :=
  ⟨shiftBy q.r (unbiased 8 xx + unbiased 32 gg), shiftBy q.g (unbiased 32 gg),
    shiftBy q.b (unbiased 8 yy + unbiased 32 gg), q.a⟩

/-- `dr - dg` or `db - dg` of the encoder, wrapped to a signed byte (R148). -/
def relDelta (d dg : Int) : Int := sext8 (wrap8 (d - dg))

/-- The op the encoder emits for a pixel `p` that missed the cache, `q` the previous pixel: DIFF, then LUMA, then
RGB when alpha is unchanged, and RGBA when it changed (R142, R147 to R150). -/
def missOp (q p : Pixel) : Instr :=
  if p.a = q.a then
    if within (-2) 1 (sdiff8 p.r q.r) && within (-2) 1 (sdiff8 p.g q.g) && within (-2) 1 (sdiff8 p.b q.b) then
      .diff (biased 2 2 (sdiff8 p.r q.r)) (biased 2 2 (sdiff8 p.g q.g)) (biased 2 2 (sdiff8 p.b q.b))
    else if within (-32) 31 (sdiff8 p.g q.g) && within (-8) 7 (relDelta (sdiff8 p.r q.r) (sdiff8 p.g q.g))
        && within (-8) 7 (relDelta (sdiff8 p.b q.b) (sdiff8 p.g q.g)) then
      .luma (biased 6 32 (sdiff8 p.g q.g)) (biased 4 8 (relDelta (sdiff8 p.r q.r) (sdiff8 p.g q.g)))
        (biased 4 8 (relDelta (sdiff8 p.b q.b) (sdiff8 p.g q.g)))
    else .rgb p.r p.g p.b
  else .rgba p.r p.g p.b p.a

/-- A big-endian 32-bit integer from its four bytes (R69, R101). -/
def be32 (b0 b1 b2 b3 : Byte) : BitVec 32 := b0 ++ b1 ++ b2 ++ b3

/-- The four bytes of a 32-bit integer, most significant first (R69, R120). -/
def be32Bytes (w : BitVec 32) : List Byte :=
  [w.extractLsb' 24 8, w.extractLsb' 16 8, w.extractLsb' 8 8, w.extractLsb' 0 8]

/-- The exact product of width and height, 64 bits (R7, R126, R140): it never wraps. -/
def area (w h : BitVec 32) : BitVec 64 := w.setWidth 64 * h.setWidth 64

end Sys2Proof.Machine
end

