-- ==== Sys2Proof/Machine/Flags.lean ====
section
/-! DEFINITION. The codec has no condition flags (10_state.md R30). Its status is the engine state and the error code:
their numbers and the STATUS registers' words (R26, R27, R33, R40; 60_exceptions.md R210). -/

namespace Sys2Proof.Machine

/-- `ENC_STATE` as a number (R26). -/
def encStCode : EncSt → BitVec 3
  | .idle => 0
  | .body => 1
  | .done => 2
  | .error => 3

/-- `DEC_STATE` as a number (R27). -/
def decStCode : DecSt → BitVec 3
  | .idle => 0
  | .header => 1
  | .body => 2
  | .ended => 3
  | .error => 4

/-- The error code as a number (R210). -/
def errNumber : ErrCode → BitVec 4
  | .none => 0
  | .dimensionsMismatchPixelsLength => 1
  | .invalidQOIHeader => 2
  | .invalidValueInHeader => 3
  | .readingMorePixels => 4
  | .missingEndBytes => 5
  | .ioError => 6

/-- A STATUS word: `STATE` in bits 2:0, `ERR` in bits 7:4, other bits 0 (R31, R38). -/
def statusWord (st : BitVec 3) (err : BitVec 4) : BitVec 32 := 0#24 ++ err ++ 0#1 ++ st

end Sys2Proof.Machine
end

