-- ==== Sys2Proof/Machine/Ops.lean ====
section
/-! DEFINITION. The named operations every step is built of: cache read and write, raising an error, accepting a byte,
delivering a pixel, emitting bytes (00_scope.md R11; 10_state.md R29, R45; 20_memory.md R60 to R66; 42_decoder.md R171,
R181; 60_exceptions.md R214). -/

namespace Sys2Proof.Machine

/-- What slot `a` holds: an unlisted slot reads `ZERO` (R65). -/
def Memory.lookup : Memory → Nat → Pixel
  | [], _ => Pixel.zero
  | (k, p) :: m, a => if k = a then p else Memory.lookup m a

/-- `m` with slot `a` holding `p`, in canonical form. -/
def Memory.insert : Memory → Nat → Pixel → Memory
  | [], a, p => if p = Pixel.zero then [] else [(a, p)]
  | (k, q) :: m, a, p =>
    if a < k then (if p = Pixel.zero then (k, q) :: m else (a, p) :: (k, q) :: m)
    else if a = k then (if p = Pixel.zero then m else (a, p) :: m)
    else (k, q) :: Memory.insert m a p

/-- The canonical form from slot `lo` on. -/
def Memory.wfFrom : Nat → Memory → Bool
  | _, [] => true
  | lo, (k, p) :: m => decide (lo ≤ k) && decide (k < 64) && decide (p ≠ Pixel.zero) && Memory.wfFrom (k + 1) m

/-- The canonical form: slots strictly rising below 64, no entry equal to what an unlisted slot reads as. -/
def Memory.wf (m : Memory) : Bool := Memory.wfFrom 0 m

/-- `CacheRead(C, i)` (R11, R45): the slot's whole pixel. -/
def Memory.read (m : Memory) (i : BitVec 6) : Pixel := Memory.lookup m i.toNat

/-- `CacheWrite(C, i, p)` (R11, R45): it overwrites the occupant (R64). -/
def Memory.write (m : Memory) (i : BitVec 6) (p : Pixel) : Memory := Memory.insert m i.toNat p

/-- Every slot `ZERO`, as START leaves the cache (R48, R65, R81). -/
def Memory.cleared : Memory := []

/-- The cache whose slot `i` holds `f i`. -/
def Memory.fill (f : BitVec 6 → Pixel) : Memory :=
  (List.range 64).foldl (fun m i => Memory.write m (BitVec.ofNat 6 i) (f (BitVec.ofNat 6 i))) Memory.cleared

/-- `raise X` in ENC (R214): the code and the ERROR state, nothing else. -/
def Enc.raise (e : Enc) (x : ErrCode) : Enc := { e with err := x, st := .error }

/-- `raise X` in DEC (R214): the code and the ERROR state, nothing else. -/
def Dec.raise (d : Dec) (x : ErrCode) : Dec := { d with err := x, st := .error }

/-- `n` bytes accepted from the DEC byte input (R29). -/
def Dec.accept (d : Dec) (n : Nat) : Dec := { d with inpos := d.inpos + BitVec.ofNat 64 n }

/-- The pixel count has reached the target (R172). -/
def Dec.atTarget (d : Dec) : Bool := decide (d.count = d.target)

/-- DEC takes the next byte as an op's first: BODY, and no op pending (R172). -/
def Dec.atOpStart (d : Dec) : Bool := decide (d.st = .body) && decide (d.op = .none)

/-- `Deliver(p, store)` (R171), with the pixels it puts. -/
def Dec.deliver (d : Dec) (p : Pixel) (store : Bool) : Dec × List Pixel :=
  ({ d with
      prev := p
      cache := if store then d.cache.write (pixelHash p) p else d.cache
      count := d.count + 1 }, [p])

/-- `OverflowCheck` (R181) before what an op does: at the target it raises and puts nothing. -/
def Dec.orOverflow (d : Dec) (rest : Dec × List Pixel) : Dec × List Pixel :=
  if d.count = d.target then (d.raise .readingMorePixels, []) else rest

/-- The first byte of a multi-byte op, taken (R173, R175, R182). -/
def Dec.begin (d : Dec) (op : PendingOp) (b : Byte) : Dec := { d with op := op, optag := b, opn := 0 }

/-- The byte positions end at 2^64 - 1 (R29). -/
def posMax : Nat := 2 ^ 64

/-- The end of an ENC step that leaves the engine at `e` and emits `bs` (R11 `emit`, R29). -/
def emit (s : State) (e : Enc) (bs : List Byte) : Result :=
  if e.outpos.toNat + bs.length < posMax then
    .next { s with enc := { e with outpos := e.outpos + BitVec.ofNat 64 bs.length }, out := s.out ++ bs }
  else .refused .positionOverflow

/-- The end of a DEC step or op that leaves the engine at `r.1` and puts the pixels `r.2` (R11 `put`, R24, R29). The
bytes it accepted are what `D.inpos` grew by. -/
def putAll (s : State) (r : Dec × List Pixel) : Result :=
  if s.dec.inpos.toNat + (r.1.inpos - s.dec.inpos).toNat < posMax then
    .next { s with dec := r.1, pout := s.pout ++ r.2.map (lane Config.pixelOrderDec) }
  else .refused .positionOverflow

end Sys2Proof.Machine
end

