-- ==== Sys2Proof/Machine/Header.lean ====
section
/-! DEFINITION. The header codec (40_header.md R120 to R128). -/

namespace Sys2Proof.Machine

/-- The magic `qoif` (R91). -/
def magic : List Byte := [0x71#8, 0x6F#8, 0x69#8, 0x66#8]

/-- `HeaderEmit` (R120): magic, width, height, channels, colorspace, 14 bytes. -/
def headerBytes (w h : BitVec 32) (channels colorspace : Byte) : List Byte :=
  magic ++ be32Bytes w ++ be32Bytes h ++ [channels, colorspace]

/-- A legal channels tag (R35, R125). -/
def legalChannels (b : Byte) : Bool := decide (b = 3) || decide (b = 4)

/-- A legal colorspace tag (R35, R126). -/
def legalColorspace (b : Byte) : Bool := decide (b = 0) || decide (b = 1)

/-- The header byte stored and counted (R122). -/
def Dec.storeHeaderByte (d : Dec) (b : Byte) : Dec :=
  { d with hbuf := d.hbuf.setIfInBounds d.hpos b, hpos := d.hpos + 1, inpos := d.inpos + 1 }

/-- The header complete (R126): the result registers, the target, and BODY. -/
def Dec.completeHeader (d : Dec) : Dec :=
  { d with
    width := be32 d.hbuf[4] d.hbuf[5] d.hbuf[6] d.hbuf[7]
    height := be32 d.hbuf[8] d.hbuf[9] d.hbuf[10] d.hbuf[11]
    channels := d.hbuf[12]
    colorspace := d.hbuf[13]
    target := area (be32 d.hbuf[4] d.hbuf[5] d.hbuf[6] d.hbuf[7]) (be32 d.hbuf[8] d.hbuf[9] d.hbuf[10] d.hbuf[11])
    op := .none
    opn := 0
    st := .body }

/-- The check due at offset `k`, the byte stored (R122): the magic at 3 (R123), channels at 12 (R125), colorspace and
completion at 13 (R126), no check at any other. -/
def Dec.checkHeader (d : Dec) (k : Nat) (b : Byte) : Dec :=
  if k = 3 then
    if [d.hbuf[0], d.hbuf[1], d.hbuf[2], d.hbuf[3]] = magic then d else d.raise .invalidQOIHeader
  else if k = 12 then
    if legalChannels b then d else d.raise .invalidValueInHeader
  else if k = 13 then
    if legalColorspace b then d.completeHeader else d.raise .invalidValueInHeader
  else d

/-- `DEC_BYTE(b)` in HEADER (R122). -/
def Dec.headerByte (d : Dec) (b : Byte) : Dec := (d.storeHeaderByte b).checkHeader d.hpos b

/-- `DEC_EOS` in HEADER (R127). -/
def Dec.headerEos (d : Dec) : Dec :=
  if d.hpos < 4 then d.raise .invalidQOIHeader else d.raise .invalidValueInHeader

end Sys2Proof.Machine
end

