-- ==== Sys2Proof/Machine/Decoder.lean ====
section
/-! DEFINITION. The decoder engine, one byte a step (42_decoder.md R170 to R186). The ops of one byte are here whole;
those of more bytes are here by first byte and by operand byte, and whole in RawOps, DeltaOps and EndOps. -/

namespace Sys2Proof.Machine

/-- `Run` (R176): `len` copies of the previous pixel, or nothing at all if they would pass the target. -/
def Dec.runOp (d : Dec) (n : BitVec 6) : Dec × List Pixel :=
  if d.count.toNat + (n.toNat + 1) > d.target.toNat then (d.raise .readingMorePixels, [])
  else ({ d with count := d.count + BitVec.ofNat 64 (n.toNat + 1) }, List.replicate (n.toNat + 1) d.prev)

/-- `EndStart` (R178). -/
def Dec.endStart (d : Dec) : Dec := { d with op := .endm, opn := 0 }

/-- The tag `00` (R172): INDEX below the target (R177); at it the first byte of END (R178) or `MissingEndBytes` (R179). -/
def Dec.indexOp (d : Dec) (i : BitVec 6) : Dec × List Pixel :=
  if d.count = d.target then (if i = 0 then (d.endStart, []) else (d.raise .missingEndBytes, []))
  else d.deliver (d.cache.read i) false

/-- `Diff` (R180). -/
def Dec.diffOp (d : Dec) (rr gg bb : BitVec 2) : Dec × List Pixel :=
  d.orOverflow (d.deliver (diffPixel d.prev rr gg bb) true)

/-- The first byte of RGB (R173), RGBA (R175) or LUMA (R182). -/
def Dec.tagByte (d : Dec) (op : PendingOp) (b : Byte) : Dec × List Pixel := d.orOverflow (d.begin op b, [])

/-- The byte END expects after `n` of the seven that follow its first (R183). -/
def endExpected (n : Nat) : Byte := if n < 6 then 0#8 else 1#8

/-- `EndByte` (R183): bytes 2 to 8 of END. -/
def Dec.endByte (d : Dec) (b : Byte) : Dec :=
  if b ≠ endExpected d.opn then d.raise .missingEndBytes
  else if d.opn + 1 = 7 then { d with opn := d.opn + 1, op := .none, st := .ended }
  else { d with opn := d.opn + 1 }

/-- `need(op)` (R174): how many bytes follow the first. -/
def need : PendingOp → Nat
  | .none => 0
  | .rgb => 3
  | .rgba => 4
  | .luma => 1
  | .endm => 7

/-- The pixel of a completed multi-byte op (R173, R175, R182). -/
def Dec.opPixel (d : Dec) : Pixel :=
  match d.op with
  | .rgb => ⟨d.opbuf[0], d.opbuf[1], d.opbuf[2], d.prev.a⟩
  | .rgba => ⟨d.opbuf[0], d.opbuf[1], d.opbuf[2], d.opbuf[3]⟩
  | .luma => lumaPixel d.prev (payloadOf d.optag) (highNibble d.opbuf[0]) (lowNibble d.opbuf[0])
  | .none => d.prev
  | .endm => d.prev

/-- A multi-byte op completed: its pixel delivered and stored, no op pending (R173, R175, R182). -/
def Dec.completeOp (d : Dec) : Dec × List Pixel :=
  ({ (d.deliver d.opPixel true).1 with op := .none }, (d.deliver d.opPixel true).2)

/-- An operand byte stored (R174). -/
def Dec.storeOperand (d : Dec) (b : Byte) : Dec :=
  { d with opbuf := d.opbuf.setIfInBounds d.opn b, opn := d.opn + 1 }

/-- `Operand(b)` (R174): a byte of a pending op, never read as a tag. -/
def Dec.operand (d : Dec) (b : Byte) : Dec × List Pixel :=
  if d.op = .endm then (d.endByte b, [])
  else if (d.storeOperand b).opn = need d.op then (d.storeOperand b).completeOp
  else (d.storeOperand b, [])

/-- A first byte (R172), the byte counted. -/
def Dec.firstByte (d : Dec) (b : Byte) : Dec × List Pixel :=
  match opOf d.atTarget b with
  | .rgb => d.tagByte .rgb b
  | .rgba => d.tagByte .rgba b
  | .run => d.runOp (payloadOf b)
  | .index => d.indexOp (payloadOf b)
  | .endMarker => (d.endStart, [])
  | .diff => d.diffOp (diffR b) (diffG b) (diffB b)
  | .luma => d.tagByte .luma b

/-- `DEC_BYTE(b)` in BODY (R172). -/
def Dec.bodyByte (d : Dec) (b : Byte) : Dec × List Pixel :=
  if d.op = .none then (d.accept 1).firstByte b else (d.accept 1).operand b

/-- `DEC_BYTE(b)` in every state (R44): not accepted in IDLE, END and ERROR. -/
def Dec.byte (d : Dec) (b : Byte) : Dec × List Pixel :=
  match d.st with
  | .header => (d.headerByte b, [])
  | .body => d.bodyByte b
  | .idle => (d, [])
  | .ended => (d, [])
  | .error => (d, [])

/-- `DEC_BYTE(b)` (R44). -/
def decByte (b : Byte) (s : State) : Result := putAll s (s.dec.byte b)

/-- Bytes offered one after the other (R44), each a `DEC_BYTE` step. -/
def offerBytes : List Byte → State → Result
  | [], s => .next s
  | b :: bs, s =>
    match decByte b s with
    | .next t => offerBytes bs t
    | .fault r => .fault r
    | .refused r => .refused r

/-- What `DEC_START` sets (R170). -/
def Dec.start (d : Dec) : Dec :=
  { d with
    err := .none
    hpos := 0
    inpos := 0
    width := 0
    height := 0
    channels := 0
    colorspace := 0
    target := 0
    prev := Pixel.initPrev
    cache := Memory.cleared
    count := 0
    op := .none
    opn := 0
    st := .header }

/-- `DEC_START` (R170): refused in HEADER and BODY. -/
def decStart (s : State) : Result :=
  match s.dec.st with
  | .header => .refused .decStartWhileBusy
  | .body => .refused .decStartWhileBusy
  | .idle => .next { s with dec := s.dec.start }
  | .ended => .next { s with dec := s.dec.start }
  | .error => .next { s with dec := s.dec.start }

/-- `DEC_EOS` (R127, R185): no effect in IDLE, END and ERROR. -/
def decEos (s : State) : Result :=
  match s.dec.st with
  | .header => .next { s with dec := s.dec.headerEos }
  | .body => .next { s with dec := s.dec.raise .missingEndBytes }
  | .idle => .next s
  | .ended => .next s
  | .error => .next s

/-- `DEC_IOERR` (R128, R186): no effect in IDLE, END and ERROR. -/
def decIoErr (s : State) : Result :=
  match s.dec.st with
  | .header => .next { s with dec := s.dec.raise .ioError }
  | .body => .next { s with dec := s.dec.raise .ioError }
  | .idle => .next s
  | .ended => .next s
  | .error => .next s

end Sys2Proof.Machine
end

