-- ==== Sys2Proof/Machine/DeltaOps.lean ====
section
/-! DEFINITION. DIFF and LUMA (42_decoder.md R180, R182). -/

namespace Sys2Proof.Machine

/-- LUMA whole (R182): the overflow check at the first byte, then the second byte and the pixel. -/
def Dec.lumaOp (d : Dec) (gg : BitVec 6) (xx yy : BitVec 4) : Dec × List Pixel :=
  if d.count = d.target then ((d.accept 1).raise .readingMorePixels, [])
  else
    { d.accept 2 with
        optag := 0b10#2 ++ gg
        opn := 1
        opbuf := #v[xx ++ yy, d.opbuf[1], d.opbuf[2], d.opbuf[3]] }.deliver (lumaPixel d.prev gg xx yy) true

/-- The DIFF row (R180). -/
def execDiff (rr gg bb : BitVec 2) (s : State) : Result :=
  if s.dec.atOpStart then putAll s ((s.dec.accept 1).diffOp rr gg bb) else offerBytes (encode (.diff rr gg bb)) s

/-- The LUMA row. -/
def execLuma (gg : BitVec 6) (xx yy : BitVec 4) (s : State) : Result :=
  if s.dec.atOpStart then putAll s (s.dec.lumaOp gg xx yy) else offerBytes (encode (.luma gg xx yy)) s

end Sys2Proof.Machine
end

