-- ==== Sys2Proof/Machine/EndOps.lean ====
section
/-! DEFINITION. END (42_decoder.md R178, R183). -/

namespace Sys2Proof.Machine

/-- The bytes of END after its first, each checked as it arrives; after the first wrong one no byte is accepted
(R183, R214). -/
def Dec.endBytes (d : Dec) : List Byte → Dec
  | [] => d
  | b :: bs => if d.st = .body then Dec.endBytes ((d.accept 1).endByte b) bs else d

/-- END whole, at the target: its first byte (R178) and the seven that follow (R183). -/
def Dec.endOp (d : Dec) (bs : List Byte) : Dec × List Pixel := ((d.accept 1).endStart.endBytes bs, [])

/-- The END row. Below the target its first byte is INDEX 0 and the rest are what they are (R177, R246). -/
def execEndMarker (b1 b2 b3 b4 b5 b6 b7 : Byte) (s : State) : Result :=
  if s.dec.atOpStart && s.dec.atTarget then putAll s (s.dec.endOp [b1, b2, b3, b4, b5, b6, b7])
  else offerBytes (encode (.endMarker b1 b2 b3 b4 b5 b6 b7)) s

end Sys2Proof.Machine
end

