-- ==== Sys2Proof/Machine/RawOps.lean ====
section
/-! DEFINITION. RGB and RGBA (42_decoder.md R173, R175). -/

namespace Sys2Proof.Machine

/-- RGB whole (R173): the overflow check at the tag, then the operands and the pixel with the previous alpha. -/
def Dec.rgbOp (d : Dec) (r g b : Byte) : Dec × List Pixel :=
  if d.count = d.target then ((d.accept 1).raise .readingMorePixels, [])
  else
    { d.accept 4 with optag := 0xFE#8, opn := 3, opbuf := #v[r, g, b, d.opbuf[3]] }.deliver ⟨r, g, b, d.prev.a⟩ true

/-- RGBA whole (R175). -/
def Dec.rgbaOp (d : Dec) (r g b a : Byte) : Dec × List Pixel :=
  if d.count = d.target then ((d.accept 1).raise .readingMorePixels, [])
  else { d.accept 5 with optag := 0xFF#8, opn := 4, opbuf := #v[r, g, b, a] }.deliver ⟨r, g, b, a⟩ true

/-- The RGB row. Where no op can start its bytes are offered as R44 says (log 14). -/
def execRgb (r g b : Byte) (s : State) : Result :=
  if s.dec.atOpStart then putAll s (s.dec.rgbOp r g b) else offerBytes (encode (.rgb r g b)) s

/-- The RGBA row. -/
def execRgba (r g b a : Byte) (s : State) : Result :=
  if s.dec.atOpStart then putAll s (s.dec.rgbaOp r g b a) else offerBytes (encode (.rgba r g b a)) s

end Sys2Proof.Machine
end

