-- ==== Sys2Proof/Machine/RunIndexOps.lean ====
section
/-! DEFINITION. RUN and INDEX (42_decoder.md R176, R177, R179). -/

namespace Sys2Proof.Machine

/-- The RUN row (R176). Payloads 62 and 63 are no RUN ops (R96, R103). -/
def execRun (n : BitVec 6) (s : State) : Result :=
  if n.toNat ≤ 61 then
    if s.dec.atOpStart then putAll s ((s.dec.accept 1).runOp n) else offerBytes (encode (.run n)) s
  else .refused .reservedRunPayload

/-- The INDEX row (R177, and R178, R179 at the target). -/
def execIndex (i : BitVec 6) (s : State) : Result :=
  if s.dec.atOpStart then putAll s ((s.dec.accept 1).indexOp i) else offerBytes (encode (.index i)) s

end Sys2Proof.Machine
end

