-- ==== Sys2Proof/Machine/Dispatch.lean ====
section
/-! DEFINITION. One arm per op of the table. -/

namespace Sys2Proof.Machine

/-- The meaning of an op (R172): its effect on the decoder and on `POUT`. -/
def exec (i : Instr) (s : State) : Host.Outcome State Fault Refusal :=
  match i with
  | .rgb r g b => Sys2Proof.Machine.execRgb r g b s
  | .rgba r g b a => Sys2Proof.Machine.execRgba r g b a s
  | .run n => Sys2Proof.Machine.execRun n s
  | .index k => Sys2Proof.Machine.execIndex k s
  | .diff rr gg bb => Sys2Proof.Machine.execDiff rr gg bb s
  | .luma gg xx yy => Sys2Proof.Machine.execLuma gg xx yy s
  | .endMarker b1 b2 b3 b4 b5 b6 b7 => Sys2Proof.Machine.execEndMarker b1 b2 b3 b4 b5 b6 b7 s

end Sys2Proof.Machine
end

