-- ==== Sys2Proof/Machine/Encoder.lean ====
section
/-! DEFINITION. The encoder engine (41_encoder.md R140 to R157). -/

namespace Sys2Proof.Machine

/-- `RunStep` (R143): a repeat of the previous pixel, with the ops emitted. -/
def Enc.runStep (e : Enc) : Enc × List Instr :=
  if e.run + 1 = 62 then ({ e with run := 0 }, [.run 61]) else ({ e with run := e.run + 1 }, [])

/-- `RunFlush` (R144): a pending run ends. -/
def Enc.runFlush (e : Enc) : Enc × List Instr :=
  if e.run = 0 then (e, []) else ({ e with run := 0 }, [.run (e.run - 1)])

/-- `Finalize` (R153): the pending run, the end marker, DONE. -/
def Enc.finalize (e : Enc) : Enc × List Instr :=
  ({ e.runFlush.1 with st := .done }, e.runFlush.2 ++ [Instr.theEnd])

/-- The op of a pixel that is no repeat: INDEX on a hit (R145); on a miss the cache store (R146) and DIFF, LUMA, RGB or
RGBA (R147 to R150); then `E.prev` (R151). -/
def Enc.opFor (e : Enc) (p : Pixel) : Enc × List Instr :=
  if e.cache.read (pixelHash p) = p then ({ e with prev := p }, [.index (pixelHash p)])
  else ({ e with prev := p, cache := e.cache.write (pixelHash p) p }, [missOp e.prev p])

/-- The pixel's part of the step, before it is counted (R142). -/
def Enc.pixelOps (e : Enc) (p : Pixel) : Enc × List Instr :=
  if p = e.prev then e.runStep
  else ((e.runFlush.1.opFor p).1, e.runFlush.2 ++ (e.runFlush.1.opFor p).2)

/-- The pixel counted, and the image finished when it was the last (R152, R153). -/
def Enc.countPixel (e : Enc) : Enc × List Instr :=
  if e.count + 1 = e.target then { e with count := e.count + 1 }.finalize else ({ e with count := e.count + 1 }, [])

/-- `ENC_PIXEL` (R142): the whole step, with the ops emitted in order. -/
def Enc.pixel (e : Enc) (p : Pixel) : Enc × List Instr :=
  ((e.pixelOps p).1.countPixel.1, (e.pixelOps p).2 ++ (e.pixelOps p).1.countPixel.2)

/-- The bytes of ops, in order (R70). -/
def opBytes (ops : List Instr) : List Byte := ops.flatMap encode

/-- The registers `ENC_START` clears before its precondition (R140). -/
def Enc.clearForStart (e : Enc) : Enc := { e with err := .none, count := 0, outpos := 0 }

/-- `StartEncode` before the header (R141, R48). -/
def Enc.startEncode (e : Enc) : Enc :=
  { e with
    prev := Pixel.initPrev
    cache := Memory.cleared
    run := 0
    count := 0
    target := area e.cfgWidth e.cfgHeight
    st := .body }

/-- The configuration's header (R120, R121). -/
def Enc.header (e : Enc) : List Byte := headerBytes e.cfgWidth e.cfgHeight e.cfgChannels e.cfgColorspace

/-- The image of no pixels is finished in the step that starts it (R141). -/
def Enc.finishIfEmpty (e : Enc) : Enc × List Instr := if e.target = 0 then e.finalize else (e, [])

/-- `ENC_START` (R140): the refusals, the precondition, then `StartEncode`. -/
def encStart (s : State) : Result :=
  if s.enc.st = .body then .refused .encStartWhileBusy
  else if (legalChannels s.enc.cfgChannels && legalColorspace s.enc.cfgColorspace) = false then
    .refused .encStartIllegalTags
  else if s.enc.cfgPixlen ≠ area s.enc.cfgWidth s.enc.cfgHeight then
    .next { s with enc := s.enc.clearForStart.raise .dimensionsMismatchPixelsLength }
  else
    emit s s.enc.clearForStart.startEncode.finishIfEmpty.1
      (s.enc.header ++ opBytes s.enc.clearForStart.startEncode.finishIfEmpty.2)

/-- `ENC_PIXEL(w)` (R142, R157). -/
def encPixel (w : Lanes) (s : State) : Result :=
  if s.enc.st = .body then
    emit s (s.enc.pixel (unlane Config.pixelOrderEnc w)).1 (opBytes (s.enc.pixel (unlane Config.pixelOrderEnc w)).2)
  else .refused .encPixelOutsideBody

/-- `ENC_IOERR` (R156): `IOError` in BODY and DONE, no effect in IDLE and ERROR. -/
def encIoErr (s : State) : Result :=
  match s.enc.st with
  | .body => .next { s with enc := s.enc.raise .ioError }
  | .done => .next { s with enc := s.enc.raise .ioError }
  | .idle => .next s
  | .error => .next s

end Sys2Proof.Machine
end

