-- ==== Sys2Proof/Machine/Registers.lean ====
section
/-! DEFINITION. The interface registers: numbers, reads and writes (10_state.md R31 to R43). -/

namespace Sys2Proof.Machine

/-- A register's number within ENC (R31). -/
def EncReg.number : EncReg → Nat
  | .ctrl => 0
  | .status => 1
  | .width => 2
  | .height => 3
  | .channels => 4
  | .colorspace => 5
  | .pixlen => 6
  | .count => 7
  | .outpos => 8

/-- A register's number within DEC (R38). -/
def DecReg.number : DecReg → Nat
  | .ctrl => 0
  | .status => 1
  | .width => 2
  | .height => 3
  | .channels => 4
  | .colorspace => 5
  | .target => 6
  | .count => 7
  | .inpos => 8

/-- The ENC register of a number; none past 8 (R31, R68). -/
def encRegOf (no : Nat) : Option EncReg :=
  [EncReg.ctrl, .status, .width, .height, .channels, .colorspace, .pixlen, .count, .outpos][no]?

/-- The DEC register of a number; none past 8 (R38, R68). -/
def decRegOf (no : Nat) : Option DecReg :=
  [DecReg.ctrl, .status, .width, .height, .channels, .colorspace, .target, .count, .inpos][no]?

/-- What a read of an ENC register returns (R31 to R37), a 32-bit register in the low 32 bits. Reads have no side
effect (R43). -/
def encRead (e : Enc) : EncReg → BitVec 64
  | .ctrl => 0
  | .status => (statusWord (encStCode e.st) (errNumber e.err)).setWidth 64
  | .width => e.cfgWidth.setWidth 64
  | .height => e.cfgHeight.setWidth 64
  | .channels => e.cfgChannels.setWidth 64
  | .colorspace => e.cfgColorspace.setWidth 64
  | .pixlen => e.cfgPixlen
  | .count => e.count
  | .outpos => e.outpos

/-- What a read of a DEC register returns (R38 to R42). Reads have no side effect (R43). -/
def decRead (d : Dec) : DecReg → BitVec 64
  | .ctrl => 0
  | .status => (statusWord (decStCode d.st) (errNumber d.err)).setWidth 64
  | .width => d.width.setWidth 64
  | .height => d.height.setWidth 64
  | .channels => d.channels.setWidth 64
  | .colorspace => d.colorspace.setWidth 64
  | .target => d.target
  | .count => d.count
  | .inpos => d.inpos

/-- A write of an ENC register (R31 to R37): `START` is ENC_START (R32), the five configuration registers store their
fields (R34 to R36), a write to a read-only register or a reserved bit has no effect (R43). -/
def encWrite (r : EncReg) (v : BitVec 64) (s : State) : Result :=
  match r with
  | .ctrl => if v.getLsbD 0 then encStart s else .next s
  | .width => .next { s with enc := { s.enc with cfgWidth := v.setWidth 32 } }
  | .height => .next { s with enc := { s.enc with cfgHeight := v.setWidth 32 } }
  | .channels => .next { s with enc := { s.enc with cfgChannels := v.setWidth 8 } }
  | .colorspace => .next { s with enc := { s.enc with cfgColorspace := v.setWidth 8 } }
  | .pixlen => .next { s with enc := { s.enc with cfgPixlen := v } }
  | .status => .next s
  | .count => .next s
  | .outpos => .next s

/-- A write of a DEC register (R38 to R43): `START` is DEC_START (R39), all others are read-only. -/
def decWrite (r : DecReg) (v : BitVec 64) (s : State) : Result :=
  match r with
  | .ctrl => if v.getLsbD 0 then decStart s else .next s
  | .status => .next s
  | .width => .next s
  | .height => .next s
  | .channels => .next s
  | .colorspace => .next s
  | .target => .next s
  | .count => .next s
  | .inpos => .next s

end Sys2Proof.Machine
end

