-- ==== Sys2Proof/Machine/Events.lean ====
section
/-! DEFINITION. Reset, and one event of the host taken (10_state.md R44; 00_scope.md R12; 70_reset_and_hazards.md
R240, R241). -/

namespace Sys2Proof.Machine

/-- The encoder as the k-th reset event leaves it: R47's values, and free values where R47 has any value (log 7). -/
def Enc.afterReset (k : Nat) : Enc :=
  { Enc.reset with
    prev := Config.resetEncPrev k
    run := Config.resetEncRun k
    cache := Memory.fill (Config.resetEncSlot k) }

/-- The decoder as the k-th reset event leaves it: R47's values, and free values where R47 has any value (log 7). -/
def Dec.afterReset (k : Nat) : Dec :=
  { Dec.reset with
    prev := Config.resetDecPrev k
    cache := Memory.fill (Config.resetDecSlot k)
    hbuf := Config.resetHbuf k
    optag := Config.resetOptag k
    opbuf := Config.resetOpbuf k }

/-- A reset event (R240, R241): both engines, nothing emitted and nothing put; what was output stays with the host. -/
def resetEvent (s : State) : Result :=
  .next { s with enc := Enc.afterReset s.resets, dec := Dec.afterReset s.resets, resets := s.resets + 1 }

/-- One event taken: the spec's atomic step (R12, R44). -/
def event (ev : Event) (s : State) : Result :=
  match ev with
  | .encStart => encStart s
  | .encPixel w => encPixel w s
  | .encIoErr => encIoErr s
  | .encWrite r v => encWrite r v s
  | .decStart => decStart s
  | .decByte b => decByte b s
  | .decEos => decEos s
  | .decIoErr => decIoErr s
  | .decWrite r v => decWrite r v s
  | .reset => resetEvent s

/-- Events taken one after the other. -/
def events : List Event → State → Result
  | [], s => .next s
  | ev :: evs, s =>
    match event ev s with
    | .next t => events evs t
    | .fault r => .fault r
    | .refused r => .refused r

end Sys2Proof.Machine
end

