-- ==== Sys2Proof/Machine/Fetch.lean ====
section
/-! DEFINITION. Fetching an op from the DEC byte input (20_memory.md R80; 42_decoder.md R172): the bytes the host has
lined up, and the placing of one op there. -/

namespace Sys2Proof.Machine

/-- The bytes lined up at the head of the host's events, before any other event. -/
def leadingBytes : List Event → List Byte
  | .decByte b :: evs => b :: leadingBytes evs
  | .encStart :: _ => []
  | .encPixel _ :: _ => []
  | .encIoErr :: _ => []
  | .encWrite _ _ :: _ => []
  | .decStart :: _ => []
  | .decEos :: _ => []
  | .decIoErr :: _ => []
  | .decWrite _ _ :: _ => []
  | .reset :: _ => []
  | [] => []

/-- The op DEC takes next, when it is at an op's start and all the op's bytes are lined up (log 1). -/
def fetch (s : State) : Option Instr :=
  if s.dec.atOpStart then
    match decode s.dec.atTarget (leadingBytes s.pending) with
    | .ok (i, _) => some i
    | .error _ => none
  else none

/-- `s` with `n` of the host's events taken. -/
def State.take (s : State) (n : Nat) : State := { s with pending := s.pending.drop n }

/-- `s` with DEC in BODY at an op's start, its pixel count at the target for END and 62 pixels, the longest op, below it
for any other op, and the op's bytes lined up first: what it takes for the very next step to run the op (log 4). -/
def State.withOp (s : State) (i : Instr) : State :=
  { s with
    dec := { s.dec with st := .body, op := .none, count := 0, target := if i.isEnd then 0 else 62 }
    pending := (encode i).map Event.decByte ++ s.pending }

end Sys2Proof.Machine
end

