-- ==== Sys2Proof/Machine/Step.lean ====
section
/-! DEFINITION. One step: the op DEC has all the bytes of, or else one event of the host (00_scope.md R12; log 1). -/

namespace Sys2Proof.Machine

/-- One step. Where DEC is at an op's start and all the op's bytes come first among the host's events, the step runs
the op, which is the same as taking its bytes one event at a time (log 1). Any other event is taken alone. Without an
event there is no step (R250). -/
def step (s : State) : Host.Outcome State Fault Refusal :=
  match fetch s, s.pending with
  | some i, _ => exec i (s.take (encode i).length)
  | none, ev :: _ => event ev (s.take 1)
  | none, [] => .fault .noEvent

/-- `s` with the op of a table word where the next step takes it (log 4). -/
def State.withFetchWord (s : State) (nbits w : Nat) : State :=
  match decodeTableWord nbits w with
  | some i => s.withOp i
  | none => s

end Sys2Proof.Machine
end

