-- ==== Sys2Proof/Safety.lean ====
section
/-! DEFINITION. What holds in every state a run reaches, in the terms claims use (10_state.md R28, R33, R40, R41;
20_memory.md R60, R65; 42_decoder.md R187; 60_exceptions.md R211). -/

namespace Sys2Proof.Machine

/-- The encoder's invariant. -/
structure Enc.Inv (e : Enc) : Prop where
  /-- `ERR` is 0 in every state except ERROR, and not in ERROR (R33, R214). -/
  errIff : e.st = .error ↔ e.err ≠ .none
  /-- The errors ENC raises (R210, R211). -/
  errKind : e.err = .none ∨ e.err = .dimensionsMismatchPixelsLength ∨ e.err = .ioError
  /-- The cache is in canonical form (R60, R65). -/
  cacheWf : e.cache.wf = true
  /-- The pixel count never passes the target (R29). -/
  countLe : e.count.toNat ≤ e.target.toNat
  /-- In BODY a pixel is still owed, the run counter is in 0..61 (R28), and the header is out (R29, R120). -/
  inBody : e.st = .body → e.run.toNat ≤ 61 ∧ e.count.toNat < e.target.toNat ∧ 14 ≤ e.outpos.toNat
  /-- In DONE the image is complete, nothing is pending, and header and end marker are out (R153). -/
  inDone : e.st = .done → e.run = 0 ∧ e.count = e.target ∧ 22 ≤ e.outpos.toNat

/-- The decoder's invariant. -/
structure Dec.Inv (d : Dec) : Prop where
  /-- `ERR` is 0 in every state except ERROR, and not in ERROR (R40, R214). -/
  errIff : d.st = .error ↔ d.err ≠ .none
  /-- The errors DEC raises (R210, R211). -/
  errKind : d.err ≠ .dimensionsMismatchPixelsLength
  /-- The cache is in canonical form (R60, R65). -/
  cacheWf : d.cache.wf = true
  /-- `D.count ≤ D.target` (R187). -/
  countLe : d.count.toNat ≤ d.target.toNat
  /-- The target is the product of the result registers, all 0 before the header is complete (R41, R42). -/
  targetEq : d.target = area d.width d.height
  /-- In HEADER fewer than 14 bytes are in, all counted, and what was checked is legal (R122 to R125). -/
  inHeader : d.st = .header → d.hpos ≤ 13 ∧ d.inpos.toNat = d.hpos ∧ d.op = .none ∧ d.count = 0 ∧
    d.width = 0 ∧ d.height = 0 ∧ d.channels = 0 ∧ d.colorspace = 0 ∧
    (4 ≤ d.hpos → [d.hbuf[0], d.hbuf[1], d.hbuf[2], d.hbuf[3]] = magic) ∧
    (13 ≤ d.hpos → legalChannels d.hbuf[12] = true)
  /-- In BODY the header is in and legal (R126), and a pending op still owes bytes (R174): END only at the target
  (R178), any other only below it (R181). -/
  inBody : d.st = .body → d.hpos = 14 ∧ 14 ≤ d.inpos.toNat ∧ legalChannels d.channels = true ∧
    legalColorspace d.colorspace = true ∧ (d.op ≠ .none → d.opn < need d.op) ∧
    (d.op = .endm → d.count = d.target ∧ 15 + d.opn ≤ d.inpos.toNat) ∧
    (d.op = .rgb ∨ d.op = .rgba ∨ d.op = .luma → d.count.toNat < d.target.toNat)
  /-- In END the image is complete and no op is pending (R183, R184, R187). -/
  inEnd : d.st = .ended → d.count = d.target ∧ d.op = .none ∧ legalChannels d.channels = true ∧
    legalColorspace d.colorspace = true ∧ 22 ≤ d.inpos.toNat

/-- The machine's invariant: both engines', and no position or count passes what its stream holds (R29). -/
structure State.Inv (s : State) : Prop where
  enc : s.enc.Inv
  dec : s.dec.Inv
  outpos : s.enc.outpos.toNat ≤ s.out.length
  count : s.dec.count.toNat ≤ s.pout.length

/-- DEC takes an op next, and the stream position has room for `n` bytes (R29, R172). -/
structure State.OpReady (s : State) (n : Nat) : Prop where
  start : s.dec.atOpStart = true
  room : s.dec.inpos.toNat + n < posMax

/-- The decoder's fields no op writes in BODY: the header's buffer and results, and the target (R126). -/
def Dec.SameHeader (d d' : Dec) : Prop :=
  d'.hpos = d.hpos ∧ d'.hbuf = d.hbuf ∧ d'.width = d.width ∧ d'.height = d.height ∧ d'.channels = d.channels ∧
    d'.colorspace = d.colorspace ∧ d'.target = d.target

/-- Everything outside the decoder and `POUT` is as before (R12, R20). -/
def State.SameOutsideDec (s t : State) : Prop :=
  t.enc = s.enc ∧ t.out = s.out ∧ t.pending = s.pending ∧ t.resets = s.resets

/-- Everything outside the encoder and `OUT` is as before (R12, R20). -/
def State.SameOutsideEnc (s t : State) : Prop :=
  t.dec = s.dec ∧ t.pout = s.pout ∧ t.pending = s.pending ∧ t.resets = s.resets

/-- The decoder after an error in an op's first byte: the byte counted, the error raised, nothing else (R214). -/
def Dec.failedAtTag (d : Dec) (x : ErrCode) : Dec := { d with inpos := d.inpos + 1, err := x, st := .error }

/-- The operand fields of the decoder are as before. -/
def Dec.SameOperands (d d' : Dec) : Prop := d'.optag = d.optag ∧ d'.opn = d.opn ∧ d'.opbuf = d.opbuf

/-- `t` is `s` after `n` bytes accepted and `Deliver(p, store)` (R171), no op pending, everything else as before but
for the operand fields of a multi-byte op. -/
structure State.Delivered (s t : State) (n : Nat) (p : Pixel) (store : Bool) : Prop where
  put : t.pout = s.pout ++ [lane Config.pixelOrderDec p]
  prev : t.dec.prev = p
  count : t.dec.count = s.dec.count + 1
  inpos : t.dec.inpos.toNat = s.dec.inpos.toNat + n
  stored : store = true → s.dec.cache.wf = true → t.dec.cache.read (pixelHash p) = p
  kept : ∀ i, (store = true → i ≠ pixelHash p) → t.dec.cache.read i = s.dec.cache.read i
  op : t.dec.op = .none
  st : t.dec.st = s.dec.st
  err : t.dec.err = s.dec.err
  header : s.dec.SameHeader t.dec
  outside : s.SameOutsideDec t

/-- The pixel an op stores in the cache, if it stores one: RGB, RGBA, DIFF and LUMA do, no other op does (R63). -/
def storedPixel (d : Dec) : Instr → Option Pixel
  | .rgb r g b => some ⟨r, g, b, d.prev.a⟩
  | .rgba r g b a => some ⟨r, g, b, a⟩
  | .run _ => none
  | .index _ => none
  | .diff rr gg bb => some (diffPixel d.prev rr gg bb)
  | .luma gg xx yy => some (lumaPixel d.prev gg xx yy)
  | .endMarker _ _ _ _ _ _ _ => none

/-- The RUN byte of a pending run, none when no repeat is pending (R144). -/
def runBytes (run : BitVec 6) : List Byte := if run = 0 then [] else [0b11#2 ++ (run - 1)]

/-- The encoder after the pixel's part of a step, the pixel counted (R142, R152). -/
def Enc.afterPixel (e : Enc) (p : Pixel) : Enc := { (e.pixelOps p).1 with count := e.count + 1 }

/-- The event starts an encode or writes `ENC_CTRL.START` (R32, R140). -/
def Event.startsEnc : Event → Bool
  | .encStart => true
  | .encWrite .ctrl v => v.getLsbD 0
  | _ => false

/-- The event starts a decode or writes `DEC_CTRL.START` (R39, R170). -/
def Event.startsDec : Event → Bool
  | .decStart => true
  | .decWrite .ctrl v => v.getLsbD 0
  | _ => false

/-- The event is the encoder's (R24, R31, R44). -/
def Event.forEnc : Event → Bool
  | .encStart => true
  | .encPixel _ => true
  | .encIoErr => true
  | .encWrite _ _ => true
  | _ => false

/-- The event is the decoder's (R24, R38, R44). -/
def Event.forDec : Event → Bool
  | .decStart => true
  | .decByte _ => true
  | .decEos => true
  | .decIoErr => true
  | .decWrite _ _ => true
  | _ => false

/-- The engines hold the same cache and previous pixel, and the encoder's count is the decoder's with the repeats
still pending (R67). -/
def Agree (e : Enc) (d : Dec) : Prop :=
  d.prev = e.prev ∧ d.cache = e.cache ∧ d.count.toNat + e.run.toNat = e.count.toNat ∧ d.target = e.target

end Sys2Proof.Machine
end

