-- ==== Sys2Proof/Certificates/Slice0/Obligations.lean ====
section
/-! DEFINITION. The statements for the provers. Each docstring names the rules of spec/ it formalises. -/

open Sys2Proof Sys2Proof.Machine

/-! ### The stream's encoding -/

/-- R94 to R101: decoding an op's bytes gives the op back with every operand, and leaves the bytes after it; an END
row only at the target, INDEX 0 only below it (R92). The place of DIFF's fields is the spec's own choice (R98, D8), and
that an END row carries its seven further bytes the model's (log 15). -/
def Obligations.DecodeUndoesEncode : Prop :=
  ∀ (i : Instr) (t : Bool) (rest : List Byte), (i.wf = true ∨ i.isEnd = true) → (i.isEnd = true → t = true) →
    (i = .index 0 → t = false) → decode t (encode i ++ rest) = .ok (i, rest)

/-- R94 to R102: what the decoder reads as an op is exactly that op's bytes, and the op exists. The place of DIFF's
fields is the spec's own choice (R98, D8), and that an END row carries its seven further bytes the model's (log 15). -/
def Obligations.EncodeUndoesDecode : Prop :=
  ∀ (t : Bool) (bs rest : List Byte) (i : Instr), decode t bs = .ok (i, rest) →
    bs = encode i ++ rest ∧ (i.wf = true ∨ i.isEnd = true) ∧ (i.isEnd = true → t = true) ∧ (i = .index 0 → t = false)

/-- R92, R93, R102: every first byte names one op, and with it the op's length. -/
def Obligations.FirstByteNamesOpAndLength : Prop :=
  ∀ (t : Bool) (b : Byte),
    opOf t b =
      (if b.toNat = 0xFE then .rgb
       else if b.toNat = 0xFF then .rgba
       else if 0xC0 ≤ b.toNat then .run
       else if 0x80 ≤ b.toNat then .luma
       else if 0x40 ≤ b.toNat then .diff
       else if b.toNat = 0 ∧ t = true then .endMarker
       else .index) ∧
    ∀ (bs rest : List Byte) (i : Instr), decode t (b :: bs) = .ok (i, rest) →
      (encode i).length = (opOf t b).length ∧ bs.length + 1 = (opOf t b).length + rest.length

/-- R94 to R100, words written out from the formats and from the vectors of 95_test_vectors.md: they decode to the ops
they stand for. The place of DIFF's fields is the spec's own choice (R98, D8). -/
def Obligations.SpecWordsDecode : Prop :=
  decode false [0xFE#8, 0x12#8, 0x34#8, 0x56#8] = .ok (.rgb 0x12 0x34 0x56, []) ∧
  decode false [0xFF#8, 0x00#8, 0x00#8, 0x00#8, 0x80#8] = .ok (.rgba 0 0 0 0x80, []) ∧
  decode false [0xFD#8] = .ok (.run 61, []) ∧
  decode false [0x2A#8] = .ok (.index 42, []) ∧
  decode false [0x79#8] = .ok (.diff 3 2 1, []) ∧
  decode false [0xBF#8, 0xF0#8] = .ok (.luma 63 15 0, []) ∧
  decode true [0#8, 0#8, 0#8, 0#8, 0#8, 0#8, 0#8, 1#8] = .ok (.theEnd, []) ∧
  decode false [0#8, 0#8] = .ok (.index 0, [0#8])

/-- R61: the index function, and (the spec's own derivation) that 8-bit and 16-bit wraparound arithmetic give the same
index. -/
def Obligations.HashIsWeightedSum : Prop :=
  ∀ p : Pixel,
    (pixelHash p).toNat = (p.r.toNat * 3 + p.g.toNat * 5 + p.b.toNat * 7 + p.a.toNat * 11) % 64 ∧
    (pixelHash p).toNat = (p.r * 3 + p.g * 5 + p.b * 7 + p.a * 11).toNat % 64 ∧
    (pixelHash p).toNat =
      (p.r.setWidth 16 * 3 + p.g.setWidth 16 * 5 + p.b.setWidth 16 * 7 + p.a.setWidth 16 * 11).toNat % 64 ∧
    pixelHash ⟨0, 0, 0, 0⟩ = 0 ∧ pixelHash ⟨0, 0, 0, 255⟩ = 53 ∧ pixelHash ⟨0x12, 0x34, 0x56, 0xFF⟩ = 9

/-- R25, R71: the lanes of the four orderings the source names, and that every ordering carries every pixel and every
port word unchanged. Lane 0 first is the spec's own choice (R25, D7), the orderings beyond the four the model's (log 9). -/
def Obligations.LanesCarryPixels : Prop :=
  (∀ p : Pixel,
    lane .rgba p = ⟨p.r, p.g, p.b, p.a⟩ ∧ lane .argb p = ⟨p.a, p.r, p.g, p.b⟩ ∧
    lane .bgra p = ⟨p.b, p.g, p.r, p.a⟩ ∧ lane .abgr p = ⟨p.a, p.b, p.g, p.r⟩) ∧
  (∀ (o : PixelOrder) (p : Pixel), unlane o (lane o p) = p) ∧
  (∀ (o : PixelOrder) (w : Lanes), lane o (unlane o w) = w)

/-! ### The cache -/

/-- R45, R62, R64, R66: a read gives the slot's last write, a write changes no other slot, the canonical form stays,
and two caches in canonical form that read the same in every slot are the same data. -/
def Obligations.CacheReadsLastWriteAndIsItsSlots : Prop :=
  (∀ (m : Memory) (i j : BitVec 6) (p : Pixel), m.wf = true →
    (m.write i p).wf = true ∧ (m.write i p).read j = if j = i then p else m.read j) ∧
  (∀ m n : Memory, m.wf = true → n.wf = true → (∀ i, m.read i = n.read i) → m = n)

/-! ### The decoder's ops -/

/-- R173, R174: RGB puts and stores r, g, b with the previous alpha, its bytes left in the operand fields; at the
target its tag raises; its tag alone leaves it pending, and the end of the input inside it raises. -/
def Obligations.RgbDeliversRawPixel : Prop :=
  (∀ (s : State) (r g b : Byte), s.OpReady 4 → s.dec.count ≠ s.dec.target →
    ∃ t, exec (.rgb r g b) s = .next t ∧ s.Delivered t 4 ⟨r, g, b, s.dec.prev.a⟩ true ∧
      t.dec.optag = 0xFE ∧ t.dec.opn = 3 ∧ t.dec.opbuf = #v[r, g, b, s.dec.opbuf[3]]) ∧
  (∀ (s : State) (r g b : Byte), s.OpReady 1 → s.dec.count = s.dec.target →
    exec (.rgb r g b) s = .next { s with dec := s.dec.failedAtTag .readingMorePixels }) ∧
  (∀ s : State, s.OpReady 1 → s.dec.count ≠ s.dec.target →
    event (.decByte 0xFE) s =
      .next { s with dec := { s.dec with inpos := s.dec.inpos + 1, op := .rgb, optag := 0xFE, opn := 0 } }) ∧
  (∀ s : State, s.dec.st = .body → s.dec.op = .rgb →
    event .decEos s = .next { s with dec := { s.dec with err := .missingEndBytes, st := .error } })

/-- R175, R174: RGBA puts and stores its four bytes, left in the operand fields; at the target its tag raises; its tag
alone leaves it pending, and the end of the input inside it raises. -/
def Obligations.RgbaDeliversRawPixel : Prop :=
  (∀ (s : State) (r g b a : Byte), s.OpReady 5 → s.dec.count ≠ s.dec.target →
    ∃ t, exec (.rgba r g b a) s = .next t ∧ s.Delivered t 5 ⟨r, g, b, a⟩ true ∧
      t.dec.optag = 0xFF ∧ t.dec.opn = 4 ∧ t.dec.opbuf = #v[r, g, b, a]) ∧
  (∀ (s : State) (r g b a : Byte), s.OpReady 1 → s.dec.count = s.dec.target →
    exec (.rgba r g b a) s = .next { s with dec := s.dec.failedAtTag .readingMorePixels }) ∧
  (∀ s : State, s.OpReady 1 → s.dec.count ≠ s.dec.target →
    event (.decByte 0xFF) s =
      .next { s with dec := { s.dec with inpos := s.dec.inpos + 1, op := .rgba, optag := 0xFF, opn := 0 } }) ∧
  (∀ s : State, s.dec.st = .body → s.dec.op = .rgba →
    event .decEos s = .next { s with dec := { s.dec with err := .missingEndBytes, st := .error } })

/-- R176: RUN puts the previous pixel `len` times in one step and changes neither the previous pixel nor the cache; a
run that would pass the target puts nothing and raises. -/
def Obligations.RunRepeatsPreviousPixel : Prop :=
  (∀ (s : State) (n : BitVec 6), n.toNat ≤ 61 → s.OpReady 1 →
    s.dec.count.toNat + (n.toNat + 1) ≤ s.dec.target.toNat →
    ∃ t, exec (.run n) s = .next t ∧ t.dec.count.toNat = s.dec.count.toNat + (n.toNat + 1) ∧
      t = { s with
        dec := { s.dec with inpos := s.dec.inpos + 1, count := t.dec.count }
        pout := s.pout ++ List.replicate (n.toNat + 1) (lane Config.pixelOrderDec s.dec.prev) }) ∧
  (∀ (s : State) (n : BitVec 6), n.toNat ≤ 61 → s.OpReady 1 →
    s.dec.target.toNat < s.dec.count.toNat + (n.toNat + 1) →
    exec (.run n) s = .next { s with dec := s.dec.failedAtTag .readingMorePixels })

/-- R96, R103: payloads 62 and 63 do not exist as RUN ops, and no bytes decode to them. -/
def Obligations.ReservedRunPayloadsAreNoOps : Prop :=
  ∀ (n : BitVec 6), 62 ≤ n.toNat →
    (∀ s : State, exec (.run n) s = .refused .reservedRunPayload) ∧
    (∀ (t : Bool) (bs rest : List Byte), decode t bs ≠ .ok (.run n, rest))

/-- R177: INDEX puts the slot's pixel and makes it the previous one, without a cache write; a slot never written since
DEC_START gives `ZERO`; below the target `00` is always INDEX 0, whatever follows it. -/
def Obligations.IndexDeliversSlot : Prop :=
  (∀ (s : State) (i : BitVec 6), s.OpReady 1 → s.dec.count ≠ s.dec.target →
    ∃ t, exec (.index i) s = .next t ∧ s.Delivered t 1 (s.dec.cache.read i) false ∧ t.dec.cache = s.dec.cache ∧
      s.dec.SameOperands t.dec) ∧
  (∀ (s t : State) (i : BitVec 6), event .decStart s = .next t → t.dec.cache.read i = Pixel.zero) ∧
  (∀ (s : State) (bs : List Byte), s.dec.count ≠ s.dec.target →
    decode s.dec.atTarget (0#8 :: bs) = .ok (.index 0, bs))

/-- R178, R179, R181: at the target the only first byte that is no error is `00`, which starts END; `01` to `3F` raise
`MissingEndBytes`, all others `ReadingMorePixels`, and nothing is put. The INDEX row there is those bytes. -/
def Obligations.OnlyEndStartsAtTarget : Prop :=
  (∀ (s : State) (b : Byte), s.OpReady 1 → s.dec.count = s.dec.target →
    event (.decByte b) s =
      .next { s with
        dec :=
          if b.toNat = 0 then { s.dec with inpos := s.dec.inpos + 1, op := .endm, opn := 0 }
          else if b.toNat ≤ 0x3F then s.dec.failedAtTag .missingEndBytes
          else s.dec.failedAtTag .readingMorePixels }) ∧
  (∀ (s : State) (i : BitVec 6), s.OpReady 1 → s.dec.count = s.dec.target →
    exec (.index i) s =
      .next { s with
        dec :=
          if i.toNat = 0 then { s.dec with inpos := s.dec.inpos + 1, op := .endm, opn := 0 }
          else s.dec.failedAtTag .missingEndBytes })

/-- R180: DIFF adds its three deltas to the previous pixel, wrapping, and puts and stores the result; at the target it
raises. -/
def Obligations.DiffAddsDeltas : Prop :=
  (∀ (s : State) (rr gg bb : BitVec 2), s.OpReady 1 → s.dec.count ≠ s.dec.target →
    ∃ t, exec (.diff rr gg bb) s = .next t ∧ s.dec.SameOperands t.dec ∧
      s.Delivered t 1
        ⟨wrap8 ((s.dec.prev.r.toNat : Int) + rr.toNat - 2), wrap8 ((s.dec.prev.g.toNat : Int) + gg.toNat - 2),
          wrap8 ((s.dec.prev.b.toNat : Int) + bb.toNat - 2), s.dec.prev.a⟩ true) ∧
  (∀ (s : State) (rr gg bb : BitVec 2), s.OpReady 1 → s.dec.count = s.dec.target →
    exec (.diff rr gg bb) s = .next { s with dec := s.dec.failedAtTag .readingMorePixels })

/-- R182, R174: LUMA adds the green delta to green and the green-relative deltas with it to red and blue, wrapping, and puts
and stores the result; at the target its first byte raises; its first byte alone leaves it pending, and the end of the
input inside it raises. -/
def Obligations.LumaAddsRelativeDeltas : Prop :=
  (∀ (s : State) (gg : BitVec 6) (xx yy : BitVec 4), s.OpReady 2 → s.dec.count ≠ s.dec.target →
    ∃ t, exec (.luma gg xx yy) s = .next t ∧
      s.Delivered t 2
        ⟨wrap8 ((s.dec.prev.r.toNat : Int) + ((xx.toNat : Int) - 8) + ((gg.toNat : Int) - 32)),
          wrap8 ((s.dec.prev.g.toNat : Int) + ((gg.toNat : Int) - 32)),
          wrap8 ((s.dec.prev.b.toNat : Int) + ((yy.toNat : Int) - 8) + ((gg.toNat : Int) - 32)), s.dec.prev.a⟩ true ∧
      t.dec.optag.toNat = 0x80 + gg.toNat ∧ t.dec.opn = 1 ∧
      t.dec.opbuf = #v[xx ++ yy, s.dec.opbuf[1], s.dec.opbuf[2], s.dec.opbuf[3]]) ∧
  (∀ (s : State) (gg : BitVec 6) (xx yy : BitVec 4), s.OpReady 1 → s.dec.count = s.dec.target →
    exec (.luma gg xx yy) s = .next { s with dec := s.dec.failedAtTag .readingMorePixels }) ∧
  (∀ (s : State) (b : Byte), s.OpReady 1 → s.dec.count ≠ s.dec.target → 0x80 ≤ b.toNat → b.toNat ≤ 0xBF →
    event (.decByte b) s =
      .next { s with dec := { s.dec with inpos := s.dec.inpos + 1, op := .luma, optag := b, opn := 0 } }) ∧
  (∀ s : State, s.dec.st = .body → s.dec.op = .luma →
    event .decEos s = .next { s with dec := { s.dec with err := .missingEndBytes, st := .error } })

/-- R178, R183: at the target the end marker reaches END in its eight bytes; an END row whose first wrong byte is the
one after `k` right ones raises there, and no byte after it is accepted. -/
def Obligations.EndMarkerEndsOrFailsAtFirstWrongByte : Prop :=
  (∀ s : State, s.OpReady 8 → s.dec.count = s.dec.target →
    exec .theEnd s =
      .next { s with dec := { s.dec with inpos := s.dec.inpos + 8, op := .none, opn := 7, st := .ended } }) ∧
  (∀ (s : State) (b1 b2 b3 b4 b5 b6 b7 : Byte) (k : Nat), s.OpReady 8 → s.dec.count = s.dec.target → k < 7 →
    (∀ j, j < k → [b1, b2, b3, b4, b5, b6, b7][j]? = [0#8, 0#8, 0#8, 0#8, 0#8, 0#8, 1#8][j]?) →
    [b1, b2, b3, b4, b5, b6, b7][k]? ≠ [0#8, 0#8, 0#8, 0#8, 0#8, 0#8, 1#8][k]? →
    exec (.endMarker b1 b2 b3 b4 b5 b6 b7) s =
      .next { s with
        dec := { s.dec with
          inpos := s.dec.inpos + BitVec.ofNat 64 (k + 2)
          op := .endm
          opn := k
          err := .missingEndBytes
          st := .error } })

/-- R183: a byte of the end marker, checked when it arrives. -/
def Obligations.EndByteChecked : Prop :=
  ∀ (s : State) (b : Byte), s.dec.st = .body → s.dec.op = .endm → s.dec.opn ≤ 6 →
    s.dec.inpos.toNat + 1 < posMax →
    event (.decByte b) s =
      .next { s with
        dec :=
          if b.toNat ≠ (if s.dec.opn < 6 then 0 else 1) then s.dec.failedAtTag .missingEndBytes
          else if s.dec.opn = 6 then
            { s.dec with inpos := s.dec.inpos + 1, opn := 7, op := .none, st := .ended }
          else { s.dec with inpos := s.dec.inpos + 1, opn := s.dec.opn + 1 } }

/-- R174, R173, R175, R182: a byte of a pending RGB, RGBA or LUMA op is stored, whatever its value, and the last one
completes the op. -/
def Obligations.OperandByteIsNeverATag : Prop :=
  (∀ (s : State) (b : Byte), s.dec.st = .body → s.dec.op = .rgb ∨ s.dec.op = .rgba ∨ s.dec.op = .luma →
    s.dec.opn + 1 < need s.dec.op → s.dec.inpos.toNat + 1 < posMax →
    event (.decByte b) s =
      .next { s with
        dec := { s.dec with
          inpos := s.dec.inpos + 1
          opbuf := s.dec.opbuf.setIfInBounds s.dec.opn b
          opn := s.dec.opn + 1 } }) ∧
  (∀ (s : State) (b : Byte), s.dec.st = .body → s.dec.op = .rgb → s.dec.opn = 2 → s.dec.inpos.toNat + 1 < posMax →
    ∃ t, event (.decByte b) s = .next t ∧
      s.Delivered t 1 ⟨s.dec.opbuf[0], s.dec.opbuf[1], b, s.dec.prev.a⟩ true) ∧
  (∀ (s : State) (b : Byte), s.dec.st = .body → s.dec.op = .rgba → s.dec.opn = 3 → s.dec.inpos.toNat + 1 < posMax →
    ∃ t, event (.decByte b) s = .next t ∧
      s.Delivered t 1 ⟨s.dec.opbuf[0], s.dec.opbuf[1], s.dec.opbuf[2], b⟩ true) ∧
  (∀ (s : State) (b : Byte), s.dec.st = .body → s.dec.op = .luma → s.dec.opn = 0 → s.dec.inpos.toNat + 1 < posMax →
    ∃ t, event (.decByte b) s = .next t ∧
      s.Delivered t 1
        (lumaPixel s.dec.prev (payloadOf s.dec.optag) (highNibble b) (lowNibble b)) true)

/-- R12, R20, R23: FRAME of every op that starts in BODY: the encoder, `OUT`, the host's events, the header's buffer and
results and the target are as before, and `POUT` only grows. -/
def Obligations.OpsLeaveTheRestAlone : Prop :=
  ∀ (i : Instr) (s t : State), s.dec.atOpStart = true → exec i s = .next t →
    s.SameOutsideDec t ∧ s.dec.SameHeader t.dec ∧ ∃ ps, t.pout = s.pout ++ ps

/-- R63: FRAME of the cache: an op changes no slot but the one of the pixel it stores; an END row stands at the
target. -/
def Obligations.OpsChangeOnlyTheirSlot : Prop :=
  ∀ (i : Instr) (s t : State), s.dec.atOpStart = true → (i.isEnd = true → s.dec.atTarget = true) →
    exec i s = .next t →
    ∀ k : BitVec 6, (∀ p, storedPixel s.dec i = some p → k ≠ pixelHash p) → t.dec.cache.read k = s.dec.cache.read k

/-- R176, R177, R180: FRAME of the one-byte ops RUN, INDEX and DIFF: the operand fields are as before unless INDEX
starts END, RUN keeps the previous pixel, and RUN and INDEX keep the whole cache. -/
def Obligations.OneByteOpsFrame : Prop :=
  ∀ (s t : State), s.dec.atOpStart = true →
    (∀ n, exec (.run n) s = .next t →
      s.dec.SameOperands t.dec ∧ t.dec.prev = s.dec.prev ∧ t.dec.cache = s.dec.cache ∧ t.dec.op = s.dec.op) ∧
    (∀ i, exec (.index i) s = .next t →
      t.dec.cache = s.dec.cache ∧ t.dec.optag = s.dec.optag ∧ t.dec.opbuf = s.dec.opbuf ∧
        (t.dec.op ≠ .endm → t.dec.opn = s.dec.opn)) ∧
    (∀ rr gg bb, exec (.diff rr gg bb) s = .next t → s.dec.SameOperands t.dec ∧ t.dec.op = s.dec.op)

/-- D29, R12, R44: the meaning of an op is the meaning of its bytes taken one at a time, in every state of the
machine. That an op is one step is the model's choice (log 1): this says it changes nothing. -/
def Obligations.OpIsItsBytesInOrder : Prop :=
  ∀ (i : Instr) (s : State), (i.wf = true ∨ i.isEnd = true) →
    exec i s = events ((encode i).map Event.decByte) s

/-- R44, R184: outside HEADER and BODY an op's bytes are not accepted and nothing changes. -/
def Obligations.OpsNotAcceptedOutsideDecode : Prop :=
  ∀ (i : Instr) (s : State), (i.wf = true ∨ i.isEnd = true) →
    s.dec.st = .idle ∨ s.dec.st = .ended ∨ s.dec.st = .error → exec i s = .next s

/-- R67, R101, R148: DIFF, LUMA, RGB or RGBA, whichever the encoder chooses for a pixel that missed, makes that very
pixel at the decoder, and exists as an op. -/
def Obligations.MissOpMakesItsPixel : Prop :=
  ∀ (q p : Pixel) (d : Dec), d.prev = q → (missOp q p).wf = true ∧ storedPixel d (missOp q p) = some p

/-! ### The step -/

/-- R80, R172: when DEC is at an op's start and the bytes lined up decode to an op, the step is that op's exec with the
op's bytes taken from the host's events. The op as one step is the model's choice (log 1, log 2). -/
def Obligations.StepRunsTheDecodedOp : Prop :=
  ∀ (s : State) (i : Instr) (rest : List Byte), s.dec.atOpStart = true →
    decode s.dec.atTarget (leadingBytes s.pending) = .ok (i, rest) →
    step s = exec i { s with pending := s.pending.drop (encode i).length }

/-- R12, R250: a step that runs no whole op takes exactly the host's next event, and without an event there is none. The
list of the host's events is the model's choice (log 2), and so is the fault that says there is none (log 3). -/
def Obligations.StepTakesOneEvent : Prop :=
  (∀ (s : State) (ev : Event) (evs : List Event), fetch s = none → s.pending = ev :: evs →
    step s = event ev { s with pending := evs }) ∧
  (∀ s : State, s.pending = [] → step s = .fault .noEvent)

/-- R12, R77, R218: every step is one or more of the host's events taken one at a time, in their order. -/
def Obligations.StepIsEventsInOrder : Prop :=
  ∀ s t : State, step s = .next t →
    ∃ n, 1 ≤ n ∧ n ≤ s.pending.length ∧
      events (s.pending.take n) { s with pending := s.pending.drop n } = .next t

/-! ### The decoder's header and events -/

/-- R170: DEC_START outside HEADER and BODY sets every field R170 names, whatever it held, and leaves the header and
operand buffers and the op's tag as they are: the decode writes them before it reads them (R47). -/
def Obligations.DecStartSetsFreshDecode : Prop :=
  (∀ s : State, s.dec.st ≠ .header → s.dec.st ≠ .body →
    ∃ t, event .decStart s = .next t ∧ s.SameOutsideDec t ∧ t.pout = s.pout ∧
      t.dec.st = .header ∧ t.dec.err = .none ∧ t.dec.hpos = 0 ∧ t.dec.inpos = 0 ∧ t.dec.width = 0 ∧
      t.dec.height = 0 ∧ t.dec.channels = 0 ∧ t.dec.colorspace = 0 ∧ t.dec.target = 0 ∧
      t.dec.prev = ⟨0, 0, 0, 255⟩ ∧ (∀ i, t.dec.cache.read i = ⟨0, 0, 0, 0⟩) ∧ t.dec.count = 0 ∧
      t.dec.op = .none ∧ t.dec.opn = 0 ∧
      t.dec.hbuf = s.dec.hbuf ∧ t.dec.optag = s.dec.optag ∧ t.dec.opbuf = s.dec.opbuf) ∧
  (∀ s : State, s.dec.st = .header ∨ s.dec.st = .body → event .decStart s = .refused .decStartWhileBusy)

/-- R122, R123, R125: a header byte is stored and counted; at offset 3 the magic is checked, at offset 12 the channels,
each once and as the byte arrives, and at every other offset up to 11 nothing else happens. -/
def Obligations.HeaderBytesCheckedAtTheirOffsets : Prop :=
  (∀ (s : State) (b : Byte), s.dec.st = .header → s.dec.hpos ≤ 11 → s.dec.hpos ≠ 3 →
    s.dec.inpos.toNat + 1 < posMax →
    event (.decByte b) s =
      .next { s with
        dec := { s.dec with
          hbuf := s.dec.hbuf.setIfInBounds s.dec.hpos b
          hpos := s.dec.hpos + 1
          inpos := s.dec.inpos + 1 } }) ∧
  (∀ (s : State) (b : Byte), s.dec.st = .header → s.dec.hpos = 3 → s.dec.inpos.toNat + 1 < posMax →
    ∃ t, event (.decByte b) s = .next t ∧ t.pout = s.pout ∧
      t.dec = { s.dec with
        hbuf := s.dec.hbuf.setIfInBounds 3 b
        hpos := 4
        inpos := s.dec.inpos + 1
        st := t.dec.st
        err := t.dec.err } ∧
      (s.dec.hbuf[0] = 0x71 ∧ s.dec.hbuf[1] = 0x6F ∧ s.dec.hbuf[2] = 0x69 ∧ b = 0x66 →
        t.dec.st = .header ∧ t.dec.err = s.dec.err) ∧
      (¬(s.dec.hbuf[0] = 0x71 ∧ s.dec.hbuf[1] = 0x6F ∧ s.dec.hbuf[2] = 0x69 ∧ b = 0x66) →
        t.dec.st = .error ∧ t.dec.err = .invalidQOIHeader)) ∧
  (∀ (s : State) (b : Byte), s.dec.st = .header → s.dec.hpos = 12 → s.dec.inpos.toNat + 1 < posMax →
    ∃ t, event (.decByte b) s = .next t ∧ t.pout = s.pout ∧
      t.dec = { s.dec with
        hbuf := s.dec.hbuf.setIfInBounds 12 b
        hpos := 13
        inpos := s.dec.inpos + 1
        st := t.dec.st
        err := t.dec.err } ∧
      (b.toNat = 3 ∨ b.toNat = 4 → t.dec.st = .header ∧ t.dec.err = s.dec.err) ∧
      (¬(b.toNat = 3 ∨ b.toNat = 4) → t.dec.st = .error ∧ t.dec.err = .invalidValueInHeader))

/-- R126: at offset 13 colorspace is checked, and a valid header writes the four result registers, the target and
BODY together. With target 0 and the count 0 of a started decode, BODY starts with the count at the target, and the
only byte that then leads anywhere but an error is `00`, the start of END (R178). -/
def Obligations.HeaderCompletesAtOffsetThirteen : Prop :=
  ∀ (s : State) (b : Byte), s.dec.st = .header → s.dec.hpos = 13 → s.dec.inpos.toNat + 1 < posMax →
    ∃ t, event (.decByte b) s = .next t ∧ t.dec.hpos = 14 ∧ t.dec.inpos = s.dec.inpos + 1 ∧ t.pout = s.pout ∧
      t.dec.hbuf = s.dec.hbuf.setIfInBounds 13 b ∧ t.dec.count = s.dec.count ∧ t.dec.prev = s.dec.prev ∧
      t.dec.cache = s.dec.cache ∧ t.dec.optag = s.dec.optag ∧ t.dec.opbuf = s.dec.opbuf ∧ s.SameOutsideDec t ∧
      (b.toNat ≤ 1 →
        t.dec.width.toNat = s.dec.hbuf[4].toNat * 2 ^ 24 + s.dec.hbuf[5].toNat * 2 ^ 16 +
          s.dec.hbuf[6].toNat * 2 ^ 8 + s.dec.hbuf[7].toNat ∧
        t.dec.height.toNat = s.dec.hbuf[8].toNat * 2 ^ 24 + s.dec.hbuf[9].toNat * 2 ^ 16 +
          s.dec.hbuf[10].toNat * 2 ^ 8 + s.dec.hbuf[11].toNat ∧
        t.dec.channels = s.dec.hbuf[12] ∧ t.dec.colorspace = b ∧
        t.dec.target.toNat = t.dec.width.toNat * t.dec.height.toNat ∧
        t.dec.op = .none ∧ t.dec.opn = 0 ∧ t.dec.st = .body ∧ t.dec.err = s.dec.err ∧
        (s.dec.count = 0 → t.dec.target = 0 →
          t.dec.count = t.dec.target ∧
          (t.dec.inpos.toNat + 1 < posMax → ∀ c : Byte, ∃ u, event (.decByte c) t = .next u ∧
            (c.toNat = 0 → u.dec.st = .body ∧ u.dec.op = .endm) ∧ (c.toNat ≠ 0 → u.dec.st = .error)))) ∧
      (1 < b.toNat →
        t.dec.st = .error ∧ t.dec.err = .invalidValueInHeader ∧ t.dec.width = s.dec.width ∧
        t.dec.height = s.dec.height ∧ t.dec.channels = s.dec.channels ∧ t.dec.colorspace = s.dec.colorspace ∧
        t.dec.target = s.dec.target ∧ t.dec.op = s.dec.op ∧ t.dec.opn = s.dec.opn)

/-- R120 to R126, R129: after DEC_START the fourteen bytes the encoder emits for a legal descriptor bring DEC to BODY
with exactly that descriptor. -/
def Obligations.HeaderRoundTrips : Prop :=
  ∀ (s : State) (w h : BitVec 32) (c k : Byte), s.dec.st ≠ .header → s.dec.st ≠ .body →
    (c.toNat = 3 ∨ c.toNat = 4) → k.toNat ≤ 1 →
    ∃ t, events (.decStart :: (headerBytes w h c k).map Event.decByte) s = .next t ∧ s.SameOutsideDec t ∧
      t.pout = s.pout ∧ t.dec.st = .body ∧ t.dec.err = .none ∧ t.dec.width = w ∧ t.dec.height = h ∧
      t.dec.channels = c ∧ t.dec.colorspace = k ∧ t.dec.target.toNat = w.toNat * h.toNat ∧ t.dec.count = 0 ∧
      t.dec.inpos = 14 ∧ t.dec.op = .none ∧ t.dec.prev = Pixel.initPrev ∧ ∀ i, t.dec.cache.read i = Pixel.zero

/-- R127, R185: the end of the input in HEADER and in BODY. The error inside the magic is the spec's own choice (R127,
D16). -/
def Obligations.EndOfInputRaises : Prop :=
  (∀ s : State, s.dec.st = .header → s.dec.hpos < 4 →
    event .decEos s = .next { s with dec := { s.dec with err := .invalidQOIHeader, st := .error } }) ∧
  (∀ s : State, s.dec.st = .header → 4 ≤ s.dec.hpos →
    event .decEos s = .next { s with dec := { s.dec with err := .invalidValueInHeader, st := .error } }) ∧
  (∀ s : State, s.dec.st = .body →
    event .decEos s = .next { s with dec := { s.dec with err := .missingEndBytes, st := .error } })

/-- R128, R156, R186: a reported I/O failure raises `IOError` in the states that have a stream open, and has no effect
in the others. -/
def Obligations.IoFailureRaises : Prop :=
  (∀ s : State, s.dec.st = .header ∨ s.dec.st = .body →
    event .decIoErr s = .next { s with dec := { s.dec with err := .ioError, st := .error } }) ∧
  (∀ s : State, s.dec.st = .idle ∨ s.dec.st = .ended ∨ s.dec.st = .error → event .decIoErr s = .next s) ∧
  (∀ s : State, s.enc.st = .body ∨ s.enc.st = .done →
    event .encIoErr s = .next { s with enc := { s.enc with err := .ioError, st := .error } }) ∧
  (∀ s : State, s.enc.st = .idle ∨ s.enc.st = .error → event .encIoErr s = .next s)

/-- R44, R184: in IDLE, END and ERROR a byte is not accepted and the end of the input has no effect. -/
def Obligations.DecoderIgnoresInputOutsideDecode : Prop :=
  ∀ (s : State) (b : Byte), s.dec.st = .idle ∨ s.dec.st = .ended ∨ s.dec.st = .error →
    event (.decByte b) s = .next s ∧ event .decEos s = .next s

/-! ### The encoder -/

/-- R44, R140, R157, R226: ENC_START while busy or with illegal tags, and ENC_PIXEL outside BODY, are refused. -/
def Obligations.EncoderHostObligationsRefused : Prop :=
  (∀ s : State, s.enc.st = .body → event .encStart s = .refused .encStartWhileBusy) ∧
  (∀ s : State, s.enc.st ≠ .body →
    ¬((s.enc.cfgChannels.toNat = 3 ∨ s.enc.cfgChannels.toNat = 4) ∧ s.enc.cfgColorspace.toNat ≤ 1) →
    event .encStart s = .refused .encStartIllegalTags) ∧
  (∀ (s : State) (w : Lanes), s.enc.st ≠ .body → event (.encPixel w) s = .refused .encPixelOutsideBody)

/-- R140, R211: a pixel buffer length that is not the exact product raises before anything is emitted. -/
def Obligations.EncStartChecksPixelLength : Prop :=
  ∀ s : State, s.enc.st ≠ .body → (s.enc.cfgChannels.toNat = 3 ∨ s.enc.cfgChannels.toNat = 4) →
    s.enc.cfgColorspace.toNat ≤ 1 → s.enc.cfgPixlen.toNat ≠ s.enc.cfgWidth.toNat * s.enc.cfgHeight.toNat →
    event .encStart s =
      .next { s with
        enc := { s.enc with err := .dimensionsMismatchPixelsLength, st := .error, count := 0, outpos := 0 } }

/-- R141, R120: an accepted ENC_START emits the 14 header bytes and opens the encode; with no pixels the end marker
follows at once and the encode is done. -/
def Obligations.EncStartEmitsHeader : Prop :=
  ∀ s : State, s.enc.st ≠ .body → (s.enc.cfgChannels.toNat = 3 ∨ s.enc.cfgChannels.toNat = 4) →
    s.enc.cfgColorspace.toNat ≤ 1 → s.enc.cfgPixlen.toNat = s.enc.cfgWidth.toNat * s.enc.cfgHeight.toNat →
    ∃ t, event .encStart s = .next t ∧ s.SameOutsideEnc t ∧ t.enc.err = .none ∧ t.enc.prev = ⟨0, 0, 0, 255⟩ ∧
      (∀ i, t.enc.cache.read i = ⟨0, 0, 0, 0⟩) ∧ t.enc.run = 0 ∧ t.enc.count = 0 ∧
      t.enc.target.toNat = s.enc.cfgWidth.toNat * s.enc.cfgHeight.toNat ∧
      t.out = s.out ++ ([0x71#8, 0x6F#8, 0x69#8, 0x66#8] ++
        [s.enc.cfgWidth.extractLsb' 24 8, s.enc.cfgWidth.extractLsb' 16 8, s.enc.cfgWidth.extractLsb' 8 8,
          s.enc.cfgWidth.extractLsb' 0 8] ++
        [s.enc.cfgHeight.extractLsb' 24 8, s.enc.cfgHeight.extractLsb' 16 8, s.enc.cfgHeight.extractLsb' 8 8,
          s.enc.cfgHeight.extractLsb' 0 8] ++ [s.enc.cfgChannels, s.enc.cfgColorspace] ++
        if t.enc.target = 0 then [0#8, 0#8, 0#8, 0#8, 0#8, 0#8, 0#8, 1#8] else []) ∧
      t.enc.st = (if t.enc.target = 0 then .done else .body) ∧
      t.enc.outpos = (if t.enc.target = 0 then 22 else 14) ∧
      t.enc.cfgWidth = s.enc.cfgWidth ∧ t.enc.cfgHeight = s.enc.cfgHeight ∧
      t.enc.cfgChannels = s.enc.cfgChannels ∧ t.enc.cfgColorspace = s.enc.cfgColorspace ∧
      t.enc.cfgPixlen = s.enc.cfgPixlen

/-- R143, R152: a repeat that is not the last pixel is only counted; the 62nd emits `FD` and the run starts anew. -/
def Obligations.RepeatIsCounted : Prop :=
  ∀ (s : State) (w : Lanes), s.enc.st = .body → unlane Config.pixelOrderEnc w = s.enc.prev → s.enc.run.toNat ≤ 61 →
    s.enc.count + 1 ≠ s.enc.target → s.enc.outpos.toNat + 1 < posMax →
    event (.encPixel w) s =
      .next
        (if s.enc.run.toNat = 61 then
          { s with
            enc := { s.enc with run := 0, count := s.enc.count + 1, outpos := s.enc.outpos + 1 }
            out := s.out ++ [0xFD#8] }
        else { s with enc := { s.enc with run := s.enc.run + 1, count := s.enc.count + 1 } })

/-- R142, R144, R145, R151: a pixel that is no repeat and is in its slot emits the pending run and then INDEX; the cache
is not written. -/
def Obligations.CacheHitEmitsIndex : Prop :=
  ∀ (s : State) (w : Lanes) (p : Pixel), s.enc.st = .body → p = unlane Config.pixelOrderEnc w → p ≠ s.enc.prev →
    s.enc.cache.read (pixelHash p) = p → s.enc.count + 1 ≠ s.enc.target → s.enc.outpos.toNat + 2 < posMax →
    ∃ t, event (.encPixel w) s = .next t ∧ s.SameOutsideEnc t ∧
      t.out = s.out ++ runBytes s.enc.run ++ [0b00#2 ++ pixelHash p] ∧
      t.enc = { s.enc with prev := p, run := 0, count := s.enc.count + 1, outpos := t.enc.outpos } ∧
      t.enc.outpos.toNat + s.out.length = s.enc.outpos.toNat + t.out.length

/-- R142, R144, R146, R151: a pixel that is no repeat and misses its slot emits the pending run and then its op, and is
stored over whatever the slot held. -/
def Obligations.CacheMissStoresAndEmits : Prop :=
  ∀ (s : State) (w : Lanes) (p : Pixel), s.enc.st = .body → p = unlane Config.pixelOrderEnc w → p ≠ s.enc.prev →
    s.enc.cache.wf = true → s.enc.cache.read (pixelHash p) ≠ p → s.enc.count + 1 ≠ s.enc.target →
    s.enc.outpos.toNat + 6 < posMax →
    ∃ t, event (.encPixel w) s = .next t ∧ s.SameOutsideEnc t ∧
      t.out = s.out ++ runBytes s.enc.run ++ encode (missOp s.enc.prev p) ∧
      t.enc.cache.read (pixelHash p) = p ∧ (∀ i, i ≠ pixelHash p → t.enc.cache.read i = s.enc.cache.read i) ∧
      t.enc = { s.enc with
        prev := p, run := 0, count := s.enc.count + 1, cache := t.enc.cache, outpos := t.enc.outpos } ∧
      t.enc.outpos.toNat + s.out.length = s.enc.outpos.toNat + t.out.length

/-- R147, R148, R149, R150: which op a pixel that missed takes, and its bytes (the place of DIFF's fields is the spec's
own choice, R98, D8); the wrap of the green-relative deltas
never matters, and a pixel that is no repeat has some delta when alpha is unchanged. -/
def Obligations.MissOpChoice : Prop :=
  ∀ (q p : Pixel) (dr dg db xr xb : Int), dr = sdiff8 p.r q.r → dg = sdiff8 p.g q.g → db = sdiff8 p.b q.b →
    xr = sext8 (wrap8 (dr - dg)) → xb = sext8 (wrap8 (db - dg)) →
    (p.a ≠ q.a → encode (missOp q p) = [0xFF#8, p.r, p.g, p.b, p.a]) ∧
    (p.a = q.a →
      ((-2 ≤ dr ∧ dr ≤ 1) ∧ (-2 ≤ dg ∧ dg ≤ 1) ∧ (-2 ≤ db ∧ db ≤ 1) →
        ((encode (missOp q p)).map BitVec.toNat).map Int.ofNat =
          [64 + 16 * (dr + 2) + 4 * (dg + 2) + (db + 2)]) ∧
      (¬((-2 ≤ dr ∧ dr ≤ 1) ∧ (-2 ≤ dg ∧ dg ≤ 1) ∧ (-2 ≤ db ∧ db ≤ 1)) →
        ((-32 ≤ dg ∧ dg ≤ 31) ∧ (-8 ≤ xr ∧ xr ≤ 7) ∧ (-8 ≤ xb ∧ xb ≤ 7) →
          ((encode (missOp q p)).map BitVec.toNat).map Int.ofNat =
            [128 + (dg + 32), 16 * (xr + 8) + (xb + 8)]) ∧
        (¬((-32 ≤ dg ∧ dg ≤ 31) ∧ (-8 ≤ xr ∧ xr ≤ 7) ∧ (-8 ≤ xb ∧ xb ≤ 7)) →
          encode (missOp q p) = [0xFE#8, p.r, p.g, p.b]))) ∧
    (-32 ≤ dg ∧ dg ≤ 31 →
      ((-8 ≤ xr ∧ xr ≤ 7) ↔ (-8 ≤ dr - dg ∧ dr - dg ≤ 7)) ∧ ((-8 ≤ xb ∧ xb ≤ 7) ↔ (-8 ≤ db - dg ∧ db - dg ≤ 7))) ∧
    (p.a = q.a → p ≠ q → ¬(dr = 0 ∧ dg = 0 ∧ db = 0))

/-- R153: the pixel that completes the image is followed, in the same step, by the run still pending and the end marker,
and the encode is done. -/
def Obligations.LastPixelFinalizes : Prop :=
  ∀ (s : State) (w : Lanes), s.enc.st = .body → s.enc.count + 1 = s.enc.target →
    s.enc.outpos.toNat + 14 < posMax →
    ∃ t, event (.encPixel w) s = .next t ∧ s.SameOutsideEnc t ∧ t.enc.st = .done ∧ t.enc.run = 0 ∧
      t.enc.count = t.enc.target ∧ t.enc.target = s.enc.target ∧ t.enc.err = s.enc.err ∧
      t.enc.prev = unlane Config.pixelOrderEnc w ∧
      t.out = s.out ++ opBytes (s.enc.pixelOps (unlane Config.pixelOrderEnc w)).2 ++
        runBytes (s.enc.pixelOps (unlane Config.pixelOrderEnc w)).1.run ++
        [0#8, 0#8, 0#8, 0#8, 0#8, 0#8, 0#8, 1#8]

/-- R155: no ENC_PIXEL step emits more than 14 bytes, and one that leaves the encode open at most 6; a repeat emits
nothing or `FD`, and at most 9 bytes if it completes the image. -/
def Obligations.PixelStepEmitsAtMostFourteenBytes : Prop :=
  ∀ (s t : State) (w : Lanes), event (.encPixel w) s = .next t →
    ∃ bs, t.out = s.out ++ bs ∧ bs.length ≤ 14 ∧ (t.enc.st = .body → bs.length ≤ 6) ∧
      (unlane Config.pixelOrderEnc w = s.enc.prev →
        bs.length ≤ 9 ∧ (t.enc.st = .body → bs = [] ∨ bs = [0xFD#8]))

/-- R67: one pixel of the encoder, and its emitted bytes taken by a decoder that agreed before, leave the two in
agreement; the pixels put and the repeats still pending are then one pixel more, the one encoded. -/
def Obligations.EngineAgreementKept : Prop :=
  ∀ (s : State) (p : Pixel), s.enc.st = .body → s.enc.Inv → Agree s.enc s.dec →
    s.dec.atOpStart = true → s.dec.inpos.toNat + 6 < posMax →
    ∃ t, events ((opBytes (s.enc.pixelOps p).2).map Event.decByte) s = .next t ∧
      Agree (s.enc.afterPixel p) t.dec ∧ t.dec.atOpStart = true ∧
      t.dec.inpos.toNat = s.dec.inpos.toNat + (opBytes (s.enc.pixelOps p).2).length ∧
      t.pout ++ List.replicate (s.enc.afterPixel p).run.toNat (lane Config.pixelOrderDec (s.enc.afterPixel p).prev) =
        s.pout ++ List.replicate s.enc.run.toNat (lane Config.pixelOrderDec s.enc.prev) ++
          [lane Config.pixelOrderDec p]

/-- R158, R67: an encode of any image of a legal configuration, and a decode of exactly the bytes it emitted, give back
the descriptor and the pixels, and leave equal caches and previous pixels. The premise on the length is the spec's own:
longer streams are outside it (R29, I7). -/
def Obligations.DecodeUndoesEncodeOfImages : Prop :=
  ∀ (s : State) (ps : List Pixel), s.enc.st ≠ .body → s.dec.st ≠ .header → s.dec.st ≠ .body →
    (s.enc.cfgChannels.toNat = 3 ∨ s.enc.cfgChannels.toNat = 4) → s.enc.cfgColorspace.toNat ≤ 1 →
    ps.length = s.enc.cfgWidth.toNat * s.enc.cfgHeight.toNat → s.enc.cfgPixlen.toNat = ps.length →
    22 + 6 * ps.length < posMax →
    ∃ t u bs,
      events (.encStart :: ps.map (fun p => .encPixel (lane Config.pixelOrderEnc p))) s = .next t ∧
      t.enc.st = .done ∧ t.out = s.out ++ bs ∧ t.enc.outpos.toNat = bs.length ∧ s.SameOutsideEnc t ∧
      events (.decStart :: bs.map Event.decByte) t = .next u ∧
      u.dec.st = .ended ∧ u.dec.width = s.enc.cfgWidth ∧ u.dec.height = s.enc.cfgHeight ∧
      u.dec.channels = s.enc.cfgChannels ∧ u.dec.colorspace = s.enc.cfgColorspace ∧
      u.dec.count.toNat = ps.length ∧ u.dec.inpos.toNat = bs.length ∧
      u.pout = s.pout ++ ps.map (lane Config.pixelOrderDec) ∧
      (Config.pixelOrderEnc = Config.pixelOrderDec → u.pout = s.pout ++ ps.map (lane Config.pixelOrderEnc)) ∧
      u.dec.cache = t.enc.cache ∧ u.dec.prev = t.enc.prev

/-! ### Interface registers -/

/-- R26, R27, R33, R40, R210: `STATE` in bits 2:0 and `ERR` in bits 7:4 of both STATUS registers, all other bits 0. The
numbers of the error codes are the spec's own choice (R210, D4). -/
def Obligations.StatusRegistersShowStateAndError : Prop :=
  (∀ e : Enc, (encRead e .status).toNat =
    (match e.st with | .idle => 0 | .body => 1 | .done => 2 | .error => 3) +
      16 * (match e.err with
        | .none => 0 | .dimensionsMismatchPixelsLength => 1 | .invalidQOIHeader => 2 | .invalidValueInHeader => 3
        | .readingMorePixels => 4 | .missingEndBytes => 5 | .ioError => 6)) ∧
  (∀ d : Dec, (decRead d .status).toNat =
    (match d.st with | .idle => 0 | .header => 1 | .body => 2 | .ended => 3 | .error => 4) +
      16 * (match d.err with
        | .none => 0 | .dimensionsMismatchPixelsLength => 1 | .invalidQOIHeader => 2 | .invalidValueInHeader => 3
        | .readingMorePixels => 4 | .missingEndBytes => 5 | .ioError => 6))

/-- R34, R35, R36, R244: a configuration register stores every value of its field, reads it back with its reserved bits
0, and changes nothing else of the machine. -/
def Obligations.ConfigurationRegistersStore : Prop :=
  ∀ (s : State) (v : BitVec 64),
    (∃ t, event (.encWrite .width v) s = .next t ∧ (encRead t.enc .width).toNat = v.toNat % 2 ^ 32 ∧
      t = { s with enc := { s.enc with cfgWidth := t.enc.cfgWidth } }) ∧
    (∃ t, event (.encWrite .height v) s = .next t ∧ (encRead t.enc .height).toNat = v.toNat % 2 ^ 32 ∧
      t = { s with enc := { s.enc with cfgHeight := t.enc.cfgHeight } }) ∧
    (∃ t, event (.encWrite .channels v) s = .next t ∧ (encRead t.enc .channels).toNat = v.toNat % 2 ^ 8 ∧
      t = { s with enc := { s.enc with cfgChannels := t.enc.cfgChannels } }) ∧
    (∃ t, event (.encWrite .colorspace v) s = .next t ∧ (encRead t.enc .colorspace).toNat = v.toNat % 2 ^ 8 ∧
      t = { s with enc := { s.enc with cfgColorspace := t.enc.cfgColorspace } }) ∧
    (∃ t, event (.encWrite .pixlen v) s = .next t ∧ encRead t.enc .pixlen = v ∧
      t = { s with enc := { s.enc with cfgPixlen := t.enc.cfgPixlen } })

/-- R32, R39, R43: writing 1 to START is the START event, writing 0 has no effect, START reads 0, and a write to a
read-only register has no effect. -/
def Obligations.ControlAndReadOnlyRegisters : Prop :=
  ∀ (s : State) (v : BitVec 64),
    (event (.encWrite .ctrl v) s = if v.toNat % 2 = 1 then event .encStart s else .next s) ∧
    (event (.decWrite .ctrl v) s = if v.toNat % 2 = 1 then event .decStart s else .next s) ∧
    encRead s.enc .ctrl = 0 ∧ decRead s.dec .ctrl = 0 ∧
    (∀ r, r = .status ∨ r = .count ∨ r = .outpos → event (.encWrite r v) s = .next s) ∧
    (∀ r, r ≠ .ctrl → event (.decWrite r v) s = .next s)

/-! ### Reset and the whole machine -/

/-- R47, R240: what the spec fixes in the state after reset. The transient fields are not stated: the spec leaves them
any value, and the model's own choice of them is log 6. -/
def Obligations.ResetStateValues : Prop :=
  State.reset.enc.st = .idle ∧ State.reset.dec.st = .idle ∧ State.reset.enc.err = .none ∧
  State.reset.dec.err = .none ∧ State.reset.enc.cfgWidth = 0 ∧ State.reset.enc.cfgHeight = 0 ∧
  State.reset.enc.cfgChannels = 0 ∧ State.reset.enc.cfgColorspace = 0 ∧ State.reset.enc.cfgPixlen = 0 ∧
  State.reset.enc.count = 0 ∧ State.reset.enc.target = 0 ∧ State.reset.enc.outpos = 0 ∧
  State.reset.dec.width = 0 ∧ State.reset.dec.height = 0 ∧ State.reset.dec.channels = 0 ∧
  State.reset.dec.colorspace = 0 ∧ State.reset.dec.target = 0 ∧ State.reset.dec.count = 0 ∧
  State.reset.dec.inpos = 0 ∧ State.reset.dec.hpos = 0 ∧ State.reset.dec.opn = 0 ∧ State.reset.dec.op = .none ∧
  State.reset.out = [] ∧ State.reset.pout = []

/-- R47, R240, R241: a reset event is accepted in every state, sets every field the spec fixes, records no error, and
neither emits nor puts nor withdraws anything. -/
def Obligations.ResetEventAbortsBothEngines : Prop :=
  ∀ s : State, ∃ t, event .reset s = .next t ∧ t.out = s.out ∧ t.pout = s.pout ∧ t.pending = s.pending ∧
    t.enc.st = .idle ∧ t.dec.st = .idle ∧ t.enc.err = .none ∧ t.dec.err = .none ∧ t.enc.cfgWidth = 0 ∧
    t.enc.cfgHeight = 0 ∧ t.enc.cfgChannels = 0 ∧ t.enc.cfgColorspace = 0 ∧ t.enc.cfgPixlen = 0 ∧
    t.enc.count = 0 ∧ t.enc.target = 0 ∧ t.enc.outpos = 0 ∧ t.dec.width = 0 ∧ t.dec.height = 0 ∧
    t.dec.channels = 0 ∧ t.dec.colorspace = 0 ∧ t.dec.target = 0 ∧ t.dec.count = 0 ∧ t.dec.inpos = 0 ∧
    t.dec.hpos = 0 ∧ t.dec.opn = 0 ∧ t.dec.op = .none ∧ t.enc.cache.wf = true ∧ t.dec.cache.wf = true

/-- The machine's invariant holds after reset (R28, R33, R40, R187). -/
def Obligations.ResetMeetsInvariant : Prop := State.reset.Inv

/-- R28, R29, R33, R40, R41, R187: every step keeps the machine's invariant. -/
def Obligations.StepKeepsInvariant : Prop := ∀ s t : State, s.Inv → step s = .next t → t.Inv

/-- R12, R20, R219: an encoder event leaves the decoder and `POUT` alone and a decoder event the encoder and `OUT`. -/
def Obligations.EnginesAreIsolated : Prop :=
  ∀ (ev : Event) (s t : State), event ev s = .next t →
    (ev.forEnc = true → s.SameOutsideEnc t) ∧ (ev.forDec = true → s.SameOutsideDec t)

/-- R12, R20, R154: what an encoder event does depends on the encoder alone, and what a decoder event does on the
decoder alone: in two machines that differ elsewhere it does the same and outputs the same. -/
def Obligations.EnginesDoNotRead : Prop :=
  (∀ (ev : Event) (s s' t : State), ev.forEnc = true → s.enc = s'.enc → event ev s = .next t →
    ∃ t' bs, event ev s' = .next t' ∧ t'.enc = t.enc ∧ t.out = s.out ++ bs ∧ t'.out = s'.out ++ bs) ∧
  (∀ (ev : Event) (s s' t : State), ev.forDec = true → s.dec = s'.dec → event ev s = .next t →
    ∃ t' ps, event ev s' = .next t' ∧ t'.dec = t.dec ∧ t.pout = s.pout ++ ps ∧ t'.pout = s'.pout ++ ps)

/-- R216: an engine in ERROR keeps its state and its error code under every event but a START and a reset. -/
def Obligations.ErrorIsLeftOnlyByStartOrReset : Prop :=
  ∀ (ev : Event) (s t : State), event ev s = .next t → ev ≠ .reset →
    (s.enc.st = .error → ev.startsEnc = false → t.enc.st = .error ∧ t.enc.err = s.enc.err) ∧
    (s.dec.st = .error → ev.startsDec = false → t.dec = s.dec)

/-- R74, R215, R240: every output is final: a step only appends to `OUT` and `POUT`. -/
def Obligations.OutputsAreFinal : Prop :=
  ∀ s t : State, step s = .next t → (∃ bs, t.out = s.out ++ bs) ∧ ∃ ps, t.pout = s.pout ++ ps

/-- R214, R215: a step of the decoder that raises an error puts no pixel and writes neither the cache, the previous
pixel nor the pixel count. -/
def Obligations.FailingByteOutputsNothing : Prop :=
  ∀ (s t : State) (b : Byte), s.dec.st ≠ .error → event (.decByte b) s = .next t → t.dec.st = .error →
    t.pout = s.pout ∧ t.dec.cache = s.dec.cache ∧ t.dec.prev = s.dec.prev ∧ t.dec.count = s.dec.count ∧
      t.dec.inpos = s.dec.inpos + 1

/-- R29, I7: a byte that would take the input position past 2^64 - 1 is outside the spec: it is refused wherever a
byte would be accepted. -/
def Obligations.PositionPastMaximumRefused : Prop :=
  ∀ (s : State) (b : Byte), s.dec.st = .header ∨ s.dec.st = .body → s.dec.inpos.toNat + 1 = posMax →
    event (.decByte b) s = .refused .positionOverflow
end

