-- ==== Sys2Proof/Machine/Bus.lean ====
section
/-! DEFINITION. The codec on a host bus, under the parameter `BUS_MAP` (00_scope.md R6; 10_state.md R24, R31, R38;
20_memory.md R68, R71, R75): a bus write is an event, a bus read a register's value or the next element of an output
stream. The step takes events only, never a bus access (log 10). -/

namespace Sys2Proof.Machine

/-- The host's place in each output stream: how many elements it has taken over the bus. It is the host's, no state of
the codec, whose streams only grow (R11, R74; log 23). -/
structure BusHost where
  outTaken : Nat
  poutTaken : Nat
deriving DecidableEq, Repr

/-- The event a bus write is, by what its address stands for (R24, R31, R38, R44). Any word written to a command input
is the command; the output streams take no write (log 10). -/
def attachedWrite (a : BusAttach) (v : BusWord) : Option Event :=
  match a with
  | .encRegister no => (encRegOf no).map (fun r => .encWrite r v)
  | .decRegister no => (decRegOf no).map (fun r => .decWrite r v)
  | .encPixelPort => some (.encPixel (Config.busLanes v))
  | .decBytePort => some (.decByte (Config.busByte v))
  | .decEosInput => some .decEos
  | .encStartInput => some .encStart
  | .encIoErrInput => some .encIoErr
  | .decStartInput => some .decStart
  | .decIoErrInput => some .decIoErr
  | .outPort => none
  | .poutPort => none
  | .unattached => none

/-- What a bus read returns, by what its address stands for, with the host's places after it. A register's value
(R31 to R43); the next byte of `OUT` or port word of `POUT` the host has not taken, if there is one (R24, R68:
sequential only; log 23). Inputs return nothing. No read changes the codec (R43, R74). -/
def attachedRead (a : BusAttach) (h : BusHost) (s : State) : Option (BusWord × BusHost) :=
  match a with
  | .encRegister no => (encRegOf no).map (fun r => (encRead s.enc r, h))
  | .decRegister no => (decRegOf no).map (fun r => (decRead s.dec r, h))
  | .outPort => s.out[h.outTaken]?.map (fun b => (Config.busWordOfByte b, { h with outTaken := h.outTaken + 1 }))
  | .poutPort => s.pout[h.poutTaken]?.map (fun w => (Config.busWordOfLanes w, { h with poutTaken := h.poutTaken + 1 }))
  | .encPixelPort => none
  | .decBytePort => none
  | .decEosInput => none
  | .encStartInput => none
  | .encIoErrInput => none
  | .decStartInput => none
  | .decIoErrInput => none
  | .unattached => none

/-- The event a bus write is under `BUS_MAP`, if its address takes writes (log 10). -/
def busWriteEvent (addr : Nat) (v : BusWord) : Option Event := attachedWrite (Config.busMap .write addr) v

/-- What a bus read returns under `BUS_MAP`, if its address gives anything (log 10). -/
def busRead (addr : Nat) (h : BusHost) (s : State) : Option (BusWord × BusHost) :=
  attachedRead (Config.busMap .read addr) h s

end Sys2Proof.Machine
end

