-- ==== Sys2Proof/Laws/Bus.lean ====
section
/-! SUPPORT. What a bus access can do, said once (00_scope.md R6; 10_state.md R24, R31, R38, R43; 20_memory.md R68, R71,
R75). -/

namespace Sys2Proof.Machine

/-- Everything a read of `OUT` can answer: the byte at the host's place, and the place one further. -/
theorem attachedRead_outPort {h k : BusHost} {s : State} {v : BusWord} :
    attachedRead .outPort h s = some (v, k) ↔
      ∃ b, s.out[h.outTaken]? = some b ∧ v = Config.busWordOfByte b ∧ k = { h with outTaken := h.outTaken + 1 } := by
  simp [attachedRead, eq_comm]

/-- Everything a read of `POUT` can answer: the port word at the host's place, and the place one further. -/
theorem attachedRead_poutPort {h k : BusHost} {s : State} {v : BusWord} :
    attachedRead .poutPort h s = some (v, k) ↔
      ∃ w, s.pout[h.poutTaken]? = some w ∧ v = Config.busWordOfLanes w ∧
        k = { h with poutTaken := h.poutTaken + 1 } := by
  simp [attachedRead, eq_comm]

/-- Everything a read of an encoder register can answer: its value, no place moved (R43). -/
theorem attachedRead_encRegister {no : Nat} {h k : BusHost} {s : State} {v : BusWord} :
    attachedRead (.encRegister no) h s = some (v, k) ↔
      ∃ r, encRegOf no = some r ∧ v = encRead s.enc r ∧ k = h := by
  simp [attachedRead, eq_comm]

/-- Everything a read of a decoder register can answer: its value, no place moved (R43). -/
theorem attachedRead_decRegister {no : Nat} {h k : BusHost} {s : State} {v : BusWord} :
    attachedRead (.decRegister no) h s = some (v, k) ↔
      ∃ r, decRegOf no = some r ∧ v = decRead s.dec r ∧ k = h := by
  simp [attachedRead, eq_comm]

/-- An element of a stream stays in its place as the stream grows. -/
theorem prefix_getElem? {α : Type} {l m : List α} {i : Nat} {x : α} (hlm : l <+: m) (h : l[i]? = some x) :
    m[i]? = some x := by
  obtain ⟨hi, rfl⟩ := List.getElem?_eq_some_iff.1 h
  exact List.prefix_iff_getElem?.1 hlm i hi

/-- What the host can read of the output streams stays there to be read as the streams grow (R74). -/
theorem attachedRead_stream_kept {a : BusAttach} {h k : BusHost} {s t : State} {v : BusWord}
    (ha : a = .outPort ∨ a = .poutPort) (ho : s.out <+: t.out) (hp : s.pout <+: t.pout)
    (hr : attachedRead a h s = some (v, k)) : attachedRead a h t = some (v, k) := by
  rcases ha with rfl | rfl
  · obtain ⟨b, hb, hv⟩ := attachedRead_outPort.1 hr
    exact attachedRead_outPort.2 ⟨b, prefix_getElem? ho hb, hv⟩
  · obtain ⟨w, hw, hv⟩ := attachedRead_poutPort.1 hr
    exact attachedRead_poutPort.2 ⟨w, prefix_getElem? hp hw, hv⟩

end Sys2Proof.Machine
end

