-- ==== Sys2Proof/Laws/State.lean ====
section
/-! SUPPORT. One lemma per field per named update, each true by definition, so that no later proof unfolds a record
update. -/

namespace Sys2Proof.Machine

@[simp] theorem Enc.raise_st (e : Enc) (x : ErrCode) : (e.raise x).st = .error := rfl
@[simp] theorem Enc.raise_err (e : Enc) (x : ErrCode) : (e.raise x).err = x := rfl
@[simp] theorem Enc.raise_prev (e : Enc) (x : ErrCode) : (e.raise x).prev = e.prev := rfl
@[simp] theorem Enc.raise_cache (e : Enc) (x : ErrCode) : (e.raise x).cache = e.cache := rfl
@[simp] theorem Enc.raise_run (e : Enc) (x : ErrCode) : (e.raise x).run = e.run := rfl
@[simp] theorem Enc.raise_count (e : Enc) (x : ErrCode) : (e.raise x).count = e.count := rfl
@[simp] theorem Enc.raise_target (e : Enc) (x : ErrCode) : (e.raise x).target = e.target := rfl
@[simp] theorem Enc.raise_outpos (e : Enc) (x : ErrCode) : (e.raise x).outpos = e.outpos := rfl
@[simp] theorem Enc.raise_cfgWidth (e : Enc) (x : ErrCode) : (e.raise x).cfgWidth = e.cfgWidth := rfl
@[simp] theorem Enc.raise_cfgHeight (e : Enc) (x : ErrCode) : (e.raise x).cfgHeight = e.cfgHeight := rfl
@[simp] theorem Enc.raise_cfgChannels (e : Enc) (x : ErrCode) : (e.raise x).cfgChannels = e.cfgChannels := rfl
@[simp] theorem Enc.raise_cfgColorspace (e : Enc) (x : ErrCode) : (e.raise x).cfgColorspace = e.cfgColorspace := rfl
@[simp] theorem Enc.raise_cfgPixlen (e : Enc) (x : ErrCode) : (e.raise x).cfgPixlen = e.cfgPixlen := rfl

@[simp] theorem Enc.clearForStart_st (e : Enc) : (e.clearForStart).st = e.st := rfl
@[simp] theorem Enc.clearForStart_err (e : Enc) : (e.clearForStart).err = .none := rfl
@[simp] theorem Enc.clearForStart_prev (e : Enc) : (e.clearForStart).prev = e.prev := rfl
@[simp] theorem Enc.clearForStart_cache (e : Enc) : (e.clearForStart).cache = e.cache := rfl
@[simp] theorem Enc.clearForStart_run (e : Enc) : (e.clearForStart).run = e.run := rfl
@[simp] theorem Enc.clearForStart_count (e : Enc) : (e.clearForStart).count = 0 := rfl
@[simp] theorem Enc.clearForStart_target (e : Enc) : (e.clearForStart).target = e.target := rfl
@[simp] theorem Enc.clearForStart_outpos (e : Enc) : (e.clearForStart).outpos = 0 := rfl
@[simp] theorem Enc.clearForStart_cfgWidth (e : Enc) : (e.clearForStart).cfgWidth = e.cfgWidth := rfl
@[simp] theorem Enc.clearForStart_cfgHeight (e : Enc) : (e.clearForStart).cfgHeight = e.cfgHeight := rfl
@[simp] theorem Enc.clearForStart_cfgChannels (e : Enc) : (e.clearForStart).cfgChannels = e.cfgChannels := rfl
@[simp] theorem Enc.clearForStart_cfgColorspace (e : Enc) : (e.clearForStart).cfgColorspace = e.cfgColorspace := rfl
@[simp] theorem Enc.clearForStart_cfgPixlen (e : Enc) : (e.clearForStart).cfgPixlen = e.cfgPixlen := rfl

@[simp] theorem Enc.startEncode_st (e : Enc) : (e.startEncode).st = .body := rfl
@[simp] theorem Enc.startEncode_err (e : Enc) : (e.startEncode).err = e.err := rfl
@[simp] theorem Enc.startEncode_prev (e : Enc) : (e.startEncode).prev = Pixel.initPrev := rfl
@[simp] theorem Enc.startEncode_cache (e : Enc) : (e.startEncode).cache = Memory.cleared := rfl
@[simp] theorem Enc.startEncode_run (e : Enc) : (e.startEncode).run = 0 := rfl
@[simp] theorem Enc.startEncode_count (e : Enc) : (e.startEncode).count = 0 := rfl
@[simp] theorem Enc.startEncode_target (e : Enc) : (e.startEncode).target = area e.cfgWidth e.cfgHeight := rfl
@[simp] theorem Enc.startEncode_outpos (e : Enc) : (e.startEncode).outpos = e.outpos := rfl
@[simp] theorem Enc.startEncode_cfgWidth (e : Enc) : (e.startEncode).cfgWidth = e.cfgWidth := rfl
@[simp] theorem Enc.startEncode_cfgHeight (e : Enc) : (e.startEncode).cfgHeight = e.cfgHeight := rfl
@[simp] theorem Enc.startEncode_cfgChannels (e : Enc) : (e.startEncode).cfgChannels = e.cfgChannels := rfl
@[simp] theorem Enc.startEncode_cfgColorspace (e : Enc) : (e.startEncode).cfgColorspace = e.cfgColorspace := rfl
@[simp] theorem Enc.startEncode_cfgPixlen (e : Enc) : (e.startEncode).cfgPixlen = e.cfgPixlen := rfl

@[simp] theorem Dec.raise_st (d : Dec) (x : ErrCode) : (d.raise x).st = .error := rfl
@[simp] theorem Dec.raise_err (d : Dec) (x : ErrCode) : (d.raise x).err = x := rfl
@[simp] theorem Dec.raise_hpos (d : Dec) (x : ErrCode) : (d.raise x).hpos = d.hpos := rfl
@[simp] theorem Dec.raise_hbuf (d : Dec) (x : ErrCode) : (d.raise x).hbuf = d.hbuf := rfl
@[simp] theorem Dec.raise_width (d : Dec) (x : ErrCode) : (d.raise x).width = d.width := rfl
@[simp] theorem Dec.raise_height (d : Dec) (x : ErrCode) : (d.raise x).height = d.height := rfl
@[simp] theorem Dec.raise_channels (d : Dec) (x : ErrCode) : (d.raise x).channels = d.channels := rfl
@[simp] theorem Dec.raise_colorspace (d : Dec) (x : ErrCode) : (d.raise x).colorspace = d.colorspace := rfl
@[simp] theorem Dec.raise_prev (d : Dec) (x : ErrCode) : (d.raise x).prev = d.prev := rfl
@[simp] theorem Dec.raise_cache (d : Dec) (x : ErrCode) : (d.raise x).cache = d.cache := rfl
@[simp] theorem Dec.raise_count (d : Dec) (x : ErrCode) : (d.raise x).count = d.count := rfl
@[simp] theorem Dec.raise_target (d : Dec) (x : ErrCode) : (d.raise x).target = d.target := rfl
@[simp] theorem Dec.raise_op (d : Dec) (x : ErrCode) : (d.raise x).op = d.op := rfl
@[simp] theorem Dec.raise_optag (d : Dec) (x : ErrCode) : (d.raise x).optag = d.optag := rfl
@[simp] theorem Dec.raise_opn (d : Dec) (x : ErrCode) : (d.raise x).opn = d.opn := rfl
@[simp] theorem Dec.raise_opbuf (d : Dec) (x : ErrCode) : (d.raise x).opbuf = d.opbuf := rfl
@[simp] theorem Dec.raise_inpos (d : Dec) (x : ErrCode) : (d.raise x).inpos = d.inpos := rfl

@[simp] theorem Dec.accept_st (d : Dec) (n : Nat) : (d.accept n).st = d.st := rfl
@[simp] theorem Dec.accept_err (d : Dec) (n : Nat) : (d.accept n).err = d.err := rfl
@[simp] theorem Dec.accept_hpos (d : Dec) (n : Nat) : (d.accept n).hpos = d.hpos := rfl
@[simp] theorem Dec.accept_hbuf (d : Dec) (n : Nat) : (d.accept n).hbuf = d.hbuf := rfl
@[simp] theorem Dec.accept_width (d : Dec) (n : Nat) : (d.accept n).width = d.width := rfl
@[simp] theorem Dec.accept_height (d : Dec) (n : Nat) : (d.accept n).height = d.height := rfl
@[simp] theorem Dec.accept_channels (d : Dec) (n : Nat) : (d.accept n).channels = d.channels := rfl
@[simp] theorem Dec.accept_colorspace (d : Dec) (n : Nat) : (d.accept n).colorspace = d.colorspace := rfl
@[simp] theorem Dec.accept_prev (d : Dec) (n : Nat) : (d.accept n).prev = d.prev := rfl
@[simp] theorem Dec.accept_cache (d : Dec) (n : Nat) : (d.accept n).cache = d.cache := rfl
@[simp] theorem Dec.accept_count (d : Dec) (n : Nat) : (d.accept n).count = d.count := rfl
@[simp] theorem Dec.accept_target (d : Dec) (n : Nat) : (d.accept n).target = d.target := rfl
@[simp] theorem Dec.accept_op (d : Dec) (n : Nat) : (d.accept n).op = d.op := rfl
@[simp] theorem Dec.accept_optag (d : Dec) (n : Nat) : (d.accept n).optag = d.optag := rfl
@[simp] theorem Dec.accept_opn (d : Dec) (n : Nat) : (d.accept n).opn = d.opn := rfl
@[simp] theorem Dec.accept_opbuf (d : Dec) (n : Nat) : (d.accept n).opbuf = d.opbuf := rfl
@[simp] theorem Dec.accept_inpos (d : Dec) (n : Nat) : (d.accept n).inpos = d.inpos + BitVec.ofNat 64 n := rfl

@[simp] theorem Dec.begin_st (d : Dec) (o : PendingOp) (b : Byte) : (d.begin o b).st = d.st := rfl
@[simp] theorem Dec.begin_err (d : Dec) (o : PendingOp) (b : Byte) : (d.begin o b).err = d.err := rfl
@[simp] theorem Dec.begin_hpos (d : Dec) (o : PendingOp) (b : Byte) : (d.begin o b).hpos = d.hpos := rfl
@[simp] theorem Dec.begin_hbuf (d : Dec) (o : PendingOp) (b : Byte) : (d.begin o b).hbuf = d.hbuf := rfl
@[simp] theorem Dec.begin_width (d : Dec) (o : PendingOp) (b : Byte) : (d.begin o b).width = d.width := rfl
@[simp] theorem Dec.begin_height (d : Dec) (o : PendingOp) (b : Byte) : (d.begin o b).height = d.height := rfl
@[simp] theorem Dec.begin_channels (d : Dec) (o : PendingOp) (b : Byte) : (d.begin o b).channels = d.channels := rfl
@[simp] theorem Dec.begin_colorspace (d : Dec) (o : PendingOp) (b : Byte) : (d.begin o b).colorspace = d.colorspace := rfl
@[simp] theorem Dec.begin_prev (d : Dec) (o : PendingOp) (b : Byte) : (d.begin o b).prev = d.prev := rfl
@[simp] theorem Dec.begin_cache (d : Dec) (o : PendingOp) (b : Byte) : (d.begin o b).cache = d.cache := rfl
@[simp] theorem Dec.begin_count (d : Dec) (o : PendingOp) (b : Byte) : (d.begin o b).count = d.count := rfl
@[simp] theorem Dec.begin_target (d : Dec) (o : PendingOp) (b : Byte) : (d.begin o b).target = d.target := rfl
@[simp] theorem Dec.begin_op (d : Dec) (o : PendingOp) (b : Byte) : (d.begin o b).op = o := rfl
@[simp] theorem Dec.begin_optag (d : Dec) (o : PendingOp) (b : Byte) : (d.begin o b).optag = b := rfl
@[simp] theorem Dec.begin_opn (d : Dec) (o : PendingOp) (b : Byte) : (d.begin o b).opn = 0 := rfl
@[simp] theorem Dec.begin_opbuf (d : Dec) (o : PendingOp) (b : Byte) : (d.begin o b).opbuf = d.opbuf := rfl
@[simp] theorem Dec.begin_inpos (d : Dec) (o : PendingOp) (b : Byte) : (d.begin o b).inpos = d.inpos := rfl

@[simp] theorem Dec.deliver_st (d : Dec) (p : Pixel) (k : Bool) : ((d.deliver p k).1).st = d.st := rfl
@[simp] theorem Dec.deliver_err (d : Dec) (p : Pixel) (k : Bool) : ((d.deliver p k).1).err = d.err := rfl
@[simp] theorem Dec.deliver_hpos (d : Dec) (p : Pixel) (k : Bool) : ((d.deliver p k).1).hpos = d.hpos := rfl
@[simp] theorem Dec.deliver_hbuf (d : Dec) (p : Pixel) (k : Bool) : ((d.deliver p k).1).hbuf = d.hbuf := rfl
@[simp] theorem Dec.deliver_width (d : Dec) (p : Pixel) (k : Bool) : ((d.deliver p k).1).width = d.width := rfl
@[simp] theorem Dec.deliver_height (d : Dec) (p : Pixel) (k : Bool) : ((d.deliver p k).1).height = d.height := rfl
@[simp] theorem Dec.deliver_channels (d : Dec) (p : Pixel) (k : Bool) : ((d.deliver p k).1).channels = d.channels := rfl
@[simp] theorem Dec.deliver_colorspace (d : Dec) (p : Pixel) (k : Bool) : ((d.deliver p k).1).colorspace = d.colorspace := rfl
@[simp] theorem Dec.deliver_prev (d : Dec) (p : Pixel) (k : Bool) : ((d.deliver p k).1).prev = p := rfl
@[simp] theorem Dec.deliver_cache (d : Dec) (p : Pixel) (k : Bool) : ((d.deliver p k).1).cache = (if k then d.cache.write (pixelHash p) p else d.cache) := rfl
@[simp] theorem Dec.deliver_count (d : Dec) (p : Pixel) (k : Bool) : ((d.deliver p k).1).count = d.count + 1 := rfl
@[simp] theorem Dec.deliver_target (d : Dec) (p : Pixel) (k : Bool) : ((d.deliver p k).1).target = d.target := rfl
@[simp] theorem Dec.deliver_op (d : Dec) (p : Pixel) (k : Bool) : ((d.deliver p k).1).op = d.op := rfl
@[simp] theorem Dec.deliver_optag (d : Dec) (p : Pixel) (k : Bool) : ((d.deliver p k).1).optag = d.optag := rfl
@[simp] theorem Dec.deliver_opn (d : Dec) (p : Pixel) (k : Bool) : ((d.deliver p k).1).opn = d.opn := rfl
@[simp] theorem Dec.deliver_opbuf (d : Dec) (p : Pixel) (k : Bool) : ((d.deliver p k).1).opbuf = d.opbuf := rfl
@[simp] theorem Dec.deliver_inpos (d : Dec) (p : Pixel) (k : Bool) : ((d.deliver p k).1).inpos = d.inpos := rfl

@[simp] theorem Dec.deliver_puts (d : Dec) (p : Pixel) (k : Bool) : (d.deliver p k).2 = [p] := rfl

@[simp] theorem Dec.storeHeaderByte_st (d : Dec) (b : Byte) : (d.storeHeaderByte b).st = d.st := rfl
@[simp] theorem Dec.storeHeaderByte_err (d : Dec) (b : Byte) : (d.storeHeaderByte b).err = d.err := rfl
@[simp] theorem Dec.storeHeaderByte_hpos (d : Dec) (b : Byte) : (d.storeHeaderByte b).hpos = d.hpos + 1 := rfl
@[simp] theorem Dec.storeHeaderByte_hbuf (d : Dec) (b : Byte) : (d.storeHeaderByte b).hbuf = d.hbuf.setIfInBounds d.hpos b := rfl
@[simp] theorem Dec.storeHeaderByte_width (d : Dec) (b : Byte) : (d.storeHeaderByte b).width = d.width := rfl
@[simp] theorem Dec.storeHeaderByte_height (d : Dec) (b : Byte) : (d.storeHeaderByte b).height = d.height := rfl
@[simp] theorem Dec.storeHeaderByte_channels (d : Dec) (b : Byte) : (d.storeHeaderByte b).channels = d.channels := rfl
@[simp] theorem Dec.storeHeaderByte_colorspace (d : Dec) (b : Byte) : (d.storeHeaderByte b).colorspace = d.colorspace := rfl
@[simp] theorem Dec.storeHeaderByte_prev (d : Dec) (b : Byte) : (d.storeHeaderByte b).prev = d.prev := rfl
@[simp] theorem Dec.storeHeaderByte_cache (d : Dec) (b : Byte) : (d.storeHeaderByte b).cache = d.cache := rfl
@[simp] theorem Dec.storeHeaderByte_count (d : Dec) (b : Byte) : (d.storeHeaderByte b).count = d.count := rfl
@[simp] theorem Dec.storeHeaderByte_target (d : Dec) (b : Byte) : (d.storeHeaderByte b).target = d.target := rfl
@[simp] theorem Dec.storeHeaderByte_op (d : Dec) (b : Byte) : (d.storeHeaderByte b).op = d.op := rfl
@[simp] theorem Dec.storeHeaderByte_optag (d : Dec) (b : Byte) : (d.storeHeaderByte b).optag = d.optag := rfl
@[simp] theorem Dec.storeHeaderByte_opn (d : Dec) (b : Byte) : (d.storeHeaderByte b).opn = d.opn := rfl
@[simp] theorem Dec.storeHeaderByte_opbuf (d : Dec) (b : Byte) : (d.storeHeaderByte b).opbuf = d.opbuf := rfl
@[simp] theorem Dec.storeHeaderByte_inpos (d : Dec) (b : Byte) : (d.storeHeaderByte b).inpos = d.inpos + 1 := rfl

@[simp] theorem Dec.completeHeader_st (d : Dec) : (d.completeHeader).st = .body := rfl
@[simp] theorem Dec.completeHeader_err (d : Dec) : (d.completeHeader).err = d.err := rfl
@[simp] theorem Dec.completeHeader_hpos (d : Dec) : (d.completeHeader).hpos = d.hpos := rfl
@[simp] theorem Dec.completeHeader_hbuf (d : Dec) : (d.completeHeader).hbuf = d.hbuf := rfl
@[simp] theorem Dec.completeHeader_width (d : Dec) : (d.completeHeader).width = be32 d.hbuf[4] d.hbuf[5] d.hbuf[6] d.hbuf[7] := rfl
@[simp] theorem Dec.completeHeader_height (d : Dec) : (d.completeHeader).height = be32 d.hbuf[8] d.hbuf[9] d.hbuf[10] d.hbuf[11] := rfl
@[simp] theorem Dec.completeHeader_channels (d : Dec) : (d.completeHeader).channels = d.hbuf[12] := rfl
@[simp] theorem Dec.completeHeader_colorspace (d : Dec) : (d.completeHeader).colorspace = d.hbuf[13] := rfl
@[simp] theorem Dec.completeHeader_prev (d : Dec) : (d.completeHeader).prev = d.prev := rfl
@[simp] theorem Dec.completeHeader_cache (d : Dec) : (d.completeHeader).cache = d.cache := rfl
@[simp] theorem Dec.completeHeader_count (d : Dec) : (d.completeHeader).count = d.count := rfl
@[simp] theorem Dec.completeHeader_target (d : Dec) : (d.completeHeader).target = area (be32 d.hbuf[4] d.hbuf[5] d.hbuf[6] d.hbuf[7]) (be32 d.hbuf[8] d.hbuf[9] d.hbuf[10] d.hbuf[11]) := rfl
@[simp] theorem Dec.completeHeader_op (d : Dec) : (d.completeHeader).op = .none := rfl
@[simp] theorem Dec.completeHeader_optag (d : Dec) : (d.completeHeader).optag = d.optag := rfl
@[simp] theorem Dec.completeHeader_opn (d : Dec) : (d.completeHeader).opn = 0 := rfl
@[simp] theorem Dec.completeHeader_opbuf (d : Dec) : (d.completeHeader).opbuf = d.opbuf := rfl
@[simp] theorem Dec.completeHeader_inpos (d : Dec) : (d.completeHeader).inpos = d.inpos := rfl

@[simp] theorem Dec.endStart_st (d : Dec) : (d.endStart).st = d.st := rfl
@[simp] theorem Dec.endStart_err (d : Dec) : (d.endStart).err = d.err := rfl
@[simp] theorem Dec.endStart_hpos (d : Dec) : (d.endStart).hpos = d.hpos := rfl
@[simp] theorem Dec.endStart_hbuf (d : Dec) : (d.endStart).hbuf = d.hbuf := rfl
@[simp] theorem Dec.endStart_width (d : Dec) : (d.endStart).width = d.width := rfl
@[simp] theorem Dec.endStart_height (d : Dec) : (d.endStart).height = d.height := rfl
@[simp] theorem Dec.endStart_channels (d : Dec) : (d.endStart).channels = d.channels := rfl
@[simp] theorem Dec.endStart_colorspace (d : Dec) : (d.endStart).colorspace = d.colorspace := rfl
@[simp] theorem Dec.endStart_prev (d : Dec) : (d.endStart).prev = d.prev := rfl
@[simp] theorem Dec.endStart_cache (d : Dec) : (d.endStart).cache = d.cache := rfl
@[simp] theorem Dec.endStart_count (d : Dec) : (d.endStart).count = d.count := rfl
@[simp] theorem Dec.endStart_target (d : Dec) : (d.endStart).target = d.target := rfl
@[simp] theorem Dec.endStart_op (d : Dec) : (d.endStart).op = .endm := rfl
@[simp] theorem Dec.endStart_optag (d : Dec) : (d.endStart).optag = d.optag := rfl
@[simp] theorem Dec.endStart_opn (d : Dec) : (d.endStart).opn = 0 := rfl
@[simp] theorem Dec.endStart_opbuf (d : Dec) : (d.endStart).opbuf = d.opbuf := rfl
@[simp] theorem Dec.endStart_inpos (d : Dec) : (d.endStart).inpos = d.inpos := rfl

@[simp] theorem Dec.storeOperand_st (d : Dec) (b : Byte) : (d.storeOperand b).st = d.st := rfl
@[simp] theorem Dec.storeOperand_err (d : Dec) (b : Byte) : (d.storeOperand b).err = d.err := rfl
@[simp] theorem Dec.storeOperand_hpos (d : Dec) (b : Byte) : (d.storeOperand b).hpos = d.hpos := rfl
@[simp] theorem Dec.storeOperand_hbuf (d : Dec) (b : Byte) : (d.storeOperand b).hbuf = d.hbuf := rfl
@[simp] theorem Dec.storeOperand_width (d : Dec) (b : Byte) : (d.storeOperand b).width = d.width := rfl
@[simp] theorem Dec.storeOperand_height (d : Dec) (b : Byte) : (d.storeOperand b).height = d.height := rfl
@[simp] theorem Dec.storeOperand_channels (d : Dec) (b : Byte) : (d.storeOperand b).channels = d.channels := rfl
@[simp] theorem Dec.storeOperand_colorspace (d : Dec) (b : Byte) : (d.storeOperand b).colorspace = d.colorspace := rfl
@[simp] theorem Dec.storeOperand_prev (d : Dec) (b : Byte) : (d.storeOperand b).prev = d.prev := rfl
@[simp] theorem Dec.storeOperand_cache (d : Dec) (b : Byte) : (d.storeOperand b).cache = d.cache := rfl
@[simp] theorem Dec.storeOperand_count (d : Dec) (b : Byte) : (d.storeOperand b).count = d.count := rfl
@[simp] theorem Dec.storeOperand_target (d : Dec) (b : Byte) : (d.storeOperand b).target = d.target := rfl
@[simp] theorem Dec.storeOperand_op (d : Dec) (b : Byte) : (d.storeOperand b).op = d.op := rfl
@[simp] theorem Dec.storeOperand_optag (d : Dec) (b : Byte) : (d.storeOperand b).optag = d.optag := rfl
@[simp] theorem Dec.storeOperand_opn (d : Dec) (b : Byte) : (d.storeOperand b).opn = d.opn + 1 := rfl
@[simp] theorem Dec.storeOperand_opbuf (d : Dec) (b : Byte) : (d.storeOperand b).opbuf = d.opbuf.setIfInBounds d.opn b := rfl
@[simp] theorem Dec.storeOperand_inpos (d : Dec) (b : Byte) : (d.storeOperand b).inpos = d.inpos := rfl

@[simp] theorem Dec.start_st (d : Dec) : (d.start).st = .header := rfl
@[simp] theorem Dec.start_err (d : Dec) : (d.start).err = .none := rfl
@[simp] theorem Dec.start_hpos (d : Dec) : (d.start).hpos = 0 := rfl
@[simp] theorem Dec.start_hbuf (d : Dec) : (d.start).hbuf = d.hbuf := rfl
@[simp] theorem Dec.start_width (d : Dec) : (d.start).width = 0 := rfl
@[simp] theorem Dec.start_height (d : Dec) : (d.start).height = 0 := rfl
@[simp] theorem Dec.start_channels (d : Dec) : (d.start).channels = 0 := rfl
@[simp] theorem Dec.start_colorspace (d : Dec) : (d.start).colorspace = 0 := rfl
@[simp] theorem Dec.start_prev (d : Dec) : (d.start).prev = Pixel.initPrev := rfl
@[simp] theorem Dec.start_cache (d : Dec) : (d.start).cache = Memory.cleared := rfl
@[simp] theorem Dec.start_count (d : Dec) : (d.start).count = 0 := rfl
@[simp] theorem Dec.start_target (d : Dec) : (d.start).target = 0 := rfl
@[simp] theorem Dec.start_op (d : Dec) : (d.start).op = .none := rfl
@[simp] theorem Dec.start_optag (d : Dec) : (d.start).optag = d.optag := rfl
@[simp] theorem Dec.start_opn (d : Dec) : (d.start).opn = 0 := rfl
@[simp] theorem Dec.start_opbuf (d : Dec) : (d.start).opbuf = d.opbuf := rfl
@[simp] theorem Dec.start_inpos (d : Dec) : (d.start).inpos = 0 := rfl

@[simp] theorem Dec.failedAtTag_st (d : Dec) (x : ErrCode) : (d.failedAtTag x).st = .error := rfl
@[simp] theorem Dec.failedAtTag_err (d : Dec) (x : ErrCode) : (d.failedAtTag x).err = x := rfl
@[simp] theorem Dec.failedAtTag_hpos (d : Dec) (x : ErrCode) : (d.failedAtTag x).hpos = d.hpos := rfl
@[simp] theorem Dec.failedAtTag_hbuf (d : Dec) (x : ErrCode) : (d.failedAtTag x).hbuf = d.hbuf := rfl
@[simp] theorem Dec.failedAtTag_width (d : Dec) (x : ErrCode) : (d.failedAtTag x).width = d.width := rfl
@[simp] theorem Dec.failedAtTag_height (d : Dec) (x : ErrCode) : (d.failedAtTag x).height = d.height := rfl
@[simp] theorem Dec.failedAtTag_channels (d : Dec) (x : ErrCode) : (d.failedAtTag x).channels = d.channels := rfl
@[simp] theorem Dec.failedAtTag_colorspace (d : Dec) (x : ErrCode) : (d.failedAtTag x).colorspace = d.colorspace := rfl
@[simp] theorem Dec.failedAtTag_prev (d : Dec) (x : ErrCode) : (d.failedAtTag x).prev = d.prev := rfl
@[simp] theorem Dec.failedAtTag_cache (d : Dec) (x : ErrCode) : (d.failedAtTag x).cache = d.cache := rfl
@[simp] theorem Dec.failedAtTag_count (d : Dec) (x : ErrCode) : (d.failedAtTag x).count = d.count := rfl
@[simp] theorem Dec.failedAtTag_target (d : Dec) (x : ErrCode) : (d.failedAtTag x).target = d.target := rfl
@[simp] theorem Dec.failedAtTag_op (d : Dec) (x : ErrCode) : (d.failedAtTag x).op = d.op := rfl
@[simp] theorem Dec.failedAtTag_optag (d : Dec) (x : ErrCode) : (d.failedAtTag x).optag = d.optag := rfl
@[simp] theorem Dec.failedAtTag_opn (d : Dec) (x : ErrCode) : (d.failedAtTag x).opn = d.opn := rfl
@[simp] theorem Dec.failedAtTag_opbuf (d : Dec) (x : ErrCode) : (d.failedAtTag x).opbuf = d.opbuf := rfl
@[simp] theorem Dec.failedAtTag_inpos (d : Dec) (x : ErrCode) : (d.failedAtTag x).inpos = d.inpos + 1 := rfl

@[simp] theorem State.take_enc (s : State) (n : Nat) : (s.take n).enc = s.enc := rfl
@[simp] theorem State.take_dec (s : State) (n : Nat) : (s.take n).dec = s.dec := rfl
@[simp] theorem State.take_out (s : State) (n : Nat) : (s.take n).out = s.out := rfl
@[simp] theorem State.take_pout (s : State) (n : Nat) : (s.take n).pout = s.pout := rfl
@[simp] theorem State.take_pending (s : State) (n : Nat) : (s.take n).pending = s.pending.drop n := rfl
@[simp] theorem State.take_resets (s : State) (n : Nat) : (s.take n).resets = s.resets := rfl

end Sys2Proof.Machine
end

