-- ==== Sys2Proof/Laws/Decode.lean ====
section
/-! SUPPORT. The fields of an encoded first byte, and the op it names (30_encoding.md R93 to R102). -/

namespace Sys2Proof

theorem opOf_run (t : Bool) : ∀ n : BitVec 6, n.toNat ≤ 61 → opOf t (0b11#2 ++ n) = .run := by
  cases t <;> decide

theorem payloadOf_append (x : BitVec 2) : ∀ n : BitVec 6, payloadOf (x ++ n) = n := by
  revert x; decide

theorem opOf_index (t : Bool) : ∀ i : BitVec 6, (i = 0 → t = false) → opOf t (0b00#2 ++ i) = .index := by
  cases t <;> decide

theorem opOf_luma (t : Bool) : ∀ g : BitVec 6, opOf t (0b10#2 ++ g) = .luma := by
  cases t <;> decide

theorem opOf_diff (t : Bool) : ∀ r g b : BitVec 2, opOf t (0b01#2 ++ r ++ g ++ b) = .diff := by
  cases t <;> decide

theorem diffR_append : ∀ r g b : BitVec 2, diffR (0b01#2 ++ r ++ g ++ b) = r := by decide

theorem diffG_append : ∀ r g b : BitVec 2, diffG (0b01#2 ++ r ++ g ++ b) = g := by decide

theorem diffB_append : ∀ r g b : BitVec 2, diffB (0b01#2 ++ r ++ g ++ b) = b := by decide

theorem highNibble_append : ∀ x y : BitVec 4, highNibble (x ++ y) = x := by decide

theorem lowNibble_append : ∀ x y : BitVec 4, lowNibble (x ++ y) = y := by decide

@[simp] theorem opOf_fe (t : Bool) : opOf t 0xFE#8 = .rgb := by cases t <;> decide

@[simp] theorem opOf_ff (t : Bool) : opOf t 0xFF#8 = .rgba := by cases t <;> decide

@[simp] theorem opOf_zero_atTarget : opOf true 0#8 = .endMarker := by decide

@[simp] theorem opOf_zero_below : opOf false 0#8 = .index := by decide

/-- The op as a name (R13). -/
def Instr.opName : Instr → OpName
  | .rgb _ _ _ => .rgb
  | .rgba _ _ _ _ => .rgba
  | .run _ => .run
  | .index _ => .index
  | .diff _ _ _ => .diff
  | .luma _ _ _ => .luma
  | .endMarker _ _ _ _ _ _ _ => .endMarker

end Sys2Proof
end

