-- ==== Sys2Proof/Laws/Memory.lean ====
section
/-! SUPPORT. The pixel cache: reads after writes, and the canonical form, which every operation keeps
(20_memory.md R60 to R66). -/

namespace Sys2Proof.Machine

theorem Memory.wfFrom_mono {m : Memory} {lo lo' : Nat} (hl : lo' ≤ lo) (h : Memory.wfFrom lo m = true) :
    Memory.wfFrom lo' m = true := by
  cases m with
  | nil => rfl
  | cons c m =>
    obtain ⟨k, p⟩ := c
    simp only [Memory.wfFrom, Bool.and_eq_true, decide_eq_true_eq] at h ⊢
    exact ⟨⟨⟨by omega, h.1.1.2⟩, h.1.2⟩, h.2⟩

/-- A slot below the canonical form's start is unlisted. -/
theorem Memory.lookup_below {m : Memory} {lo a : Nat} (h : Memory.wfFrom lo m = true) (ha : a < lo) :
    Memory.lookup m a = Pixel.zero := by
  induction m generalizing lo with
  | nil => rfl
  | cons c m ih =>
    obtain ⟨k, p⟩ := c
    simp only [Memory.wfFrom, Bool.and_eq_true, decide_eq_true_eq] at h
    have hk : ¬ k = a := by omega
    simp only [Memory.lookup, hk, if_false]
    exact ih h.2 (by omega)

theorem Memory.lookup_insert_same {m : Memory} {lo a : Nat} (p : Pixel) (h : Memory.wfFrom lo m = true) :
    Memory.lookup (Memory.insert m a p) a = p := by
  induction m generalizing lo with
  | nil => by_cases hp : p = Pixel.zero <;> simp [Memory.insert, Memory.lookup, hp]
  | cons c m ih =>
    obtain ⟨k, q⟩ := c
    simp only [Memory.wfFrom, Bool.and_eq_true, decide_eq_true_eq] at h
    simp only [Memory.insert]
    split
    · have hk : ¬ k = a := by omega
      split
      · rename_i hp
        simp [Memory.lookup, hk, Memory.lookup_below h.2 (by omega : a < k + 1), hp]
      · simp [Memory.lookup]
    · split
      · split
        · rename_i hp
          rw [Memory.lookup_below h.2 (by omega : a < k + 1), hp]
        · simp [Memory.lookup]
      · have hk : ¬ k = a := by omega
        simp only [Memory.lookup, hk, if_false]
        exact ih h.2

theorem Memory.lookup_insert_other (m : Memory) {a b : Nat} (p : Pixel) (hb : b ≠ a) :
    Memory.lookup (Memory.insert m a p) b = Memory.lookup m b := by
  induction m with
  | nil => by_cases hp : p = Pixel.zero <;> simp [Memory.insert, Memory.lookup, hp, hb.symm]
  | cons c m ih =>
    obtain ⟨k, q⟩ := c
    simp only [Memory.insert]
    split
    · split
      · rfl
      · simp [Memory.lookup, hb.symm]
    · split
      · rename_i hk
        subst hk
        split <;> simp [Memory.lookup, hb.symm]
      · simp only [Memory.lookup, ih]

theorem Memory.wfFrom_insert {m : Memory} {lo a : Nat} (p : Pixel) (h : Memory.wfFrom lo m = true) (hl : lo ≤ a)
    (ha : a < 64) : Memory.wfFrom lo (Memory.insert m a p) = true := by
  induction m generalizing lo with
  | nil => by_cases hp : p = Pixel.zero <;> simp [Memory.insert, Memory.wfFrom, hp, hl, ha]
  | cons c m ih =>
    obtain ⟨k, q⟩ := c
    simp only [Memory.wfFrom, Bool.and_eq_true, decide_eq_true_eq] at h
    obtain ⟨⟨⟨h1, h2⟩, h3⟩, h4⟩ := h
    simp only [Memory.insert]
    split
    · split
      · simp [Memory.wfFrom, h1, h2, h3, h4]
      · rename_i hk hp
        have : a + 1 ≤ k := by omega
        simp [Memory.wfFrom, hl, ha, hp, h2, h3, h4, this]
    · split
      · rename_i hk
        subst hk
        split
        · exact Memory.wfFrom_mono (by omega) h4
        · rename_i hp
          simp [Memory.wfFrom, hl, ha, hp, h4]
      · simp [Memory.wfFrom, h1, h2, h3]
        exact ih h4 (by omega)

/-- A read after a write to the same slot gives the pixel written. -/
theorem Memory.read_write_same {m : Memory} (i : BitVec 6) (p : Pixel) (h : m.wf = true) : (m.write i p).read i = p :=
  Memory.lookup_insert_same p h

/-- A write leaves every other slot alone (R64). -/
theorem Memory.read_write_other (m : Memory) {i j : BitVec 6} (p : Pixel) (hj : j ≠ i) :
    (m.write i p).read j = m.read j :=
  Memory.lookup_insert_other m p (fun h => hj (BitVec.eq_of_toNat_eq h))

theorem Memory.read_write {m : Memory} (i j : BitVec 6) (p : Pixel) (h : m.wf = true) :
    (m.write i p).read j = if j = i then p else m.read j := by
  split
  · rename_i hj
    rw [hj, Memory.read_write_same i p h]
  · rename_i hj
    exact Memory.read_write_other m p hj

/-- Every write keeps the canonical form. -/
theorem Memory.wf_write {m : Memory} (i : BitVec 6) (p : Pixel) (h : m.wf = true) : (m.write i p).wf = true :=
  Memory.wfFrom_insert p h (Nat.zero_le _) i.isLt

@[simp] theorem Memory.wf_cleared : Memory.cleared.wf = true := rfl

@[simp] theorem Memory.read_cleared (i : BitVec 6) : Memory.cleared.read i = Pixel.zero := rfl

theorem Memory.wf_foldl_write (f : BitVec 6 → Pixel) (l : List Nat) {m : Memory} (h : m.wf = true) :
    (l.foldl (fun m i => Memory.write m (BitVec.ofNat 6 i) (f (BitVec.ofNat 6 i))) m).wf = true := by
  induction l generalizing m with
  | nil => exact h
  | cons a l ih => exact ih (Memory.wf_write _ _ h)

/-- A filled cache is in canonical form. -/
@[simp] theorem Memory.wf_fill (f : BitVec 6 → Pixel) : (Memory.fill f).wf = true :=
  Memory.wf_foldl_write f _ Memory.wf_cleared

/-- The reset machine's caches are in canonical form. -/
theorem reset_memory_wf : State.reset.enc.cache.wf = true ∧ State.reset.dec.cache.wf = true := ⟨rfl, rfl⟩

end Sys2Proof.Machine
end

