-- ==== Sys2Proof/Laws/Operands.lean ====
section
/-! SUPPORT. Port lanes, wrapped deltas, header integers: each operand form undoes its inverse (10_state.md R25;
30_encoding.md R101; 41_encoder.md R147, R148; 42_decoder.md R180, R182). -/

namespace Sys2Proof.Machine

/-- A port word read back is the pixel it was made of, in every ordering (R25, R71). -/
@[simp] theorem unlane_lane (o : PixelOrder) (p : Pixel) : unlane o (lane o p) = p := by
  cases o <;> cases p <;> rfl

/-- A pixel put in a port word's lanes gives the word, in every ordering (R25, R71). -/
@[simp] theorem lane_unlane (o : PixelOrder) (w : Lanes) : lane o (unlane o w) = w := by
  cases o <;> cases w <;> rfl

theorem wrap8_toNat (x : Byte) : wrap8 (x.toNat : Int) = x := by
  simp [wrap8]

/-- Two integers that differ by a multiple of 256 wrap to the same byte. -/
theorem wrap8_eq_of_emod {u v : Int} (h : u % 256 = v % 256) : wrap8 u = wrap8 v := by
  apply BitVec.eq_of_toNat_eq
  simp only [wrap8, BitVec.toNat_ofInt]
  have : ((2 ^ 8 : Nat) : Int) = 256 := by norm_num
  rw [this, h]

theorem sext8_emod (x : Byte) : sext8 x % 256 = (x.toNat : Int) % 256 := by
  simp only [sext8, BitVec.toInt_eq_toNat_cond]
  split <;> omega

theorem wrap8_toNat_emod (v : Int) : ((wrap8 v).toNat : Int) % 256 = v % 256 := by
  simp only [wrap8, BitVec.toNat_ofInt]
  have : ((2 ^ 8 : Nat) : Int) = 256 := by norm_num
  rw [this]
  omega

theorem sdiff8_emod (x y : Byte) : sdiff8 x y % 256 = ((x.toNat : Int) - y.toNat) % 256 := by
  rw [sdiff8, sext8_emod, wrap8_toNat_emod]

theorem relDelta_emod (d dg : Int) : relDelta d dg % 256 = (d - dg) % 256 := by
  rw [relDelta, sext8_emod, wrap8_toNat_emod]

/-- Moving a channel by its wrapped difference gives the other channel (R9). -/
theorem shiftBy_sdiff8 (x y : Byte) : shiftBy y (sdiff8 x y) = x := by
  have h := sdiff8_emod x y
  calc shiftBy y (sdiff8 x y) = wrap8 (x.toNat : Int) := wrap8_eq_of_emod (by omega)
    _ = x := wrap8_toNat x

/-- The green-relative delta and the green delta together move a channel by its wrapped difference (R148, R182). -/
theorem shiftBy_relDelta (x y : Byte) (dg : Int) : shiftBy y (relDelta (sdiff8 x y) dg + dg) = x := by
  have h := sdiff8_emod x y
  have h' := relDelta_emod (sdiff8 x y) dg
  calc shiftBy y (relDelta (sdiff8 x y) dg + dg) = wrap8 (x.toNat : Int) := wrap8_eq_of_emod (by omega)
    _ = x := wrap8_toNat x

theorem within_iff {lo hi v : Int} : within lo hi v = true ↔ lo ≤ v ∧ v ≤ hi := by
  simp [within]

/-- A delta in a field's range survives its bias (R101). -/
theorem unbiased_biased {n : Nat} {bias v : Int} (h0 : 0 ≤ v + bias) (h1 : v + bias < 2 ^ n) :
    unbiased bias (biased n bias v) = v := by
  have : ((2 ^ n : Nat) : Int) = 2 ^ n := by push_cast; rfl
  simp only [unbiased, biased, BitVec.toNat_ofInt]
  rw [this, Int.toNat_of_nonneg (Int.emod_nonneg _ (by positivity)), Int.emod_eq_of_lt h0 h1]
  omega

/-- The four bytes of a 32-bit integer assemble to it (R69, R101). -/
theorem be32_be32Bytes (w : BitVec 32) :
    be32 (w.extractLsb' 24 8) (w.extractLsb' 16 8) (w.extractLsb' 8 8) (w.extractLsb' 0 8) = w := by
  simp only [be32]
  ext i hi
  simp only [BitVec.getElem_append, BitVec.getElem_extractLsb']
  grind

/-- The target is the exact product (R7). -/
theorem area_toNat (w h : BitVec 32) : (area w h).toNat = w.toNat * h.toNat := by
  have hw := w.isLt
  have hh := h.isLt
  have : w.toNat * h.toNat < 2 ^ 64 := by
    calc w.toNat * h.toNat < 2 ^ 32 * 2 ^ 32 := Nat.mul_lt_mul'' hw hh
      _ = 2 ^ 64 := by norm_num
  simp only [area, BitVec.toNat_mul, BitVec.toNat_setWidth]
  rw [Nat.mod_eq_of_lt (by omega : w.toNat < 2 ^ 64), Nat.mod_eq_of_lt (by omega : h.toNat < 2 ^ 64),
    Nat.mod_eq_of_lt this]

end Sys2Proof.Machine
end

