-- ==== Sys2Proof/Laws/Ops.lean ====
section
/-! SUPPORT. What the shared operations can do, said once: the two ends of a step, the event sequences, and how far one
byte moves the decoder's position (00_scope.md R11, R12; 10_state.md R29, R44). -/

namespace Sys2Proof.Machine

/-- Everything `emit` can answer with a next state. -/
theorem emit_next {s t : State} {e : Enc} {bs : List Byte} (h : emit s e bs = .next t) :
    e.outpos.toNat + bs.length < posMax ∧
      t = { s with enc := { e with outpos := e.outpos + BitVec.ofNat 64 bs.length }, out := s.out ++ bs } := by
  unfold emit at h
  split at h
  · exact ⟨‹_›, by cases h; rfl⟩
  · cases h

/-- `emit` completes while the position has room. -/
theorem emit_of_room {s : State} {e : Enc} {bs : List Byte} (h : e.outpos.toNat + bs.length < posMax) :
    emit s e bs =
      .next { s with enc := { e with outpos := e.outpos + BitVec.ofNat 64 bs.length }, out := s.out ++ bs } :=
  if_pos h

/-- The position after an `emit` with room, as a number (R29). -/
theorem outpos_toNat {e : Enc} {n : Nat} (h : e.outpos.toNat + n < posMax) :
    (e.outpos + BitVec.ofNat 64 n).toNat = e.outpos.toNat + n := by
  unfold posMax at h
  simp only [BitVec.toNat_add, BitVec.toNat_ofNat]
  omega

/-- Everything `putAll` can answer with a next state. -/
theorem putAll_next {s t : State} {r : Dec × List Pixel} (h : putAll s r = .next t) :
    s.dec.inpos.toNat + (r.1.inpos - s.dec.inpos).toNat < posMax ∧
      t = { s with dec := r.1, pout := s.pout ++ r.2.map (lane Config.pixelOrderDec) } := by
  unfold putAll at h
  split at h
  · exact ⟨‹_›, by cases h; rfl⟩
  · cases h

/-- `putAll` completes for a step that accepts `n` bytes while the position has room. -/
theorem putAll_of_room {s : State} {r : Dec × List Pixel} {n : Nat} (hr : r.1.inpos = s.dec.inpos + BitVec.ofNat 64 n)
    (h : s.dec.inpos.toNat + n < posMax) :
    putAll s r = .next { s with dec := r.1, pout := s.pout ++ r.2.map (lane Config.pixelOrderDec) } := by
  have hd : (r.1.inpos - s.dec.inpos).toNat = n := by
    unfold posMax at h
    rw [hr, add_sub_cancel_left, BitVec.toNat_ofNat, Nat.mod_eq_of_lt (by omega)]
  unfold putAll
  rw [hd, if_pos h]

/-- `putAll` is refused for a step that accepts `n` bytes past the last position. -/
theorem putAll_of_full {s : State} {r : Dec × List Pixel} {n : Nat} (hr : r.1.inpos = s.dec.inpos + BitVec.ofNat 64 n)
    (hn : n < posMax) (h : posMax ≤ s.dec.inpos.toNat + n) : putAll s r = .refused .positionOverflow := by
  have hd : (r.1.inpos - s.dec.inpos).toNat = n := by
    unfold posMax at hn
    rw [hr, add_sub_cancel_left, BitVec.toNat_ofNat, Nat.mod_eq_of_lt hn]
  unfold putAll
  rw [hd, if_neg (by omega)]

/-- The input position after `n` bytes with room, as a number (R29). -/
theorem inpos_toNat {d : Dec} {n : Nat} (h : d.inpos.toNat + n < posMax) :
    (d.inpos + BitVec.ofNat 64 n).toNat = d.inpos.toNat + n := by
  unfold posMax at h
  simp only [BitVec.toNat_add, BitVec.toNat_ofNat]
  omega

/-- Events in two parts. -/
theorem events_append (as bs : List Event) (s : State) :
    events (as ++ bs) s =
      match events as s with
      | .next t => events bs t
      | .fault r => .fault r
      | .refused r => .refused r := by
  induction as generalizing s with
  | nil => rfl
  | cons a as ih =>
    simp only [List.cons_append, events]
    cases event a s with
    | next t => exact ih t
    | fault r => rfl
    | refused r => rfl

theorem events_append_next {as bs : List Event} {s t : State} (h : events as s = .next t) :
    events (as ++ bs) s = events bs t := by
  rw [events_append, h]

/-- Offering bytes is taking their events. -/
theorem events_decByte (bs : List Byte) (s : State) : events (bs.map Event.decByte) s = offerBytes bs s := by
  induction bs generalizing s with
  | nil => rfl
  | cons b bs ih =>
    simp only [List.map_cons, events, offerBytes, event]
    cases decByte b s with
    | next t => exact ih t
    | fault r => rfl
    | refused r => rfl

/-- The header check never moves the position. -/
@[simp] theorem Dec.checkHeader_inpos (d : Dec) (k : Nat) (b : Byte) : (d.checkHeader k b).inpos = d.inpos := by
  unfold Dec.checkHeader
  repeat' split
  all_goals rfl

@[simp] theorem Dec.orOverflow_inpos {d : Dec} {r : Dec × List Pixel} (h : r.1.inpos = d.inpos) :
    (d.orOverflow r).1.inpos = d.inpos := by
  unfold Dec.orOverflow
  split
  · rfl
  · exact h

@[simp] theorem Dec.endByte_inpos (d : Dec) (b : Byte) : (d.endByte b).inpos = d.inpos := by
  unfold Dec.endByte
  repeat' split
  all_goals rfl

/-- A first byte never moves the position past the byte itself. -/
@[simp] theorem Dec.firstByte_inpos (d : Dec) (b : Byte) : (d.firstByte b).1.inpos = d.inpos := by
  unfold Dec.firstByte
  split
  · exact Dec.orOverflow_inpos rfl
  · exact Dec.orOverflow_inpos rfl
  · unfold Dec.runOp
    split <;> rfl
  · unfold Dec.indexOp
    repeat' split
    all_goals rfl
  · rfl
  · exact Dec.orOverflow_inpos rfl
  · exact Dec.orOverflow_inpos rfl

@[simp] theorem Dec.operand_inpos (d : Dec) (b : Byte) : (d.operand b).1.inpos = d.inpos := by
  unfold Dec.operand
  repeat' split
  · exact Dec.endByte_inpos d b
  · rfl
  · rfl

/-- DEC accepts bytes in HEADER and BODY only (R44). -/
def Dec.accepts (d : Dec) : Bool := decide (d.st = .header) || decide (d.st = .body)

/-- A byte moves the position by one where it is accepted, and not at all elsewhere (R29, R44). -/
theorem Dec.byte_inpos (d : Dec) (b : Byte) :
    (d.byte b).1.inpos = d.inpos + BitVec.ofNat 64 (if d.accepts then 1 else 0) := by
  unfold Dec.byte Dec.accepts
  cases h : d.st <;> simp [Dec.headerByte, Dec.bodyByte]
  split <;> simp

/-- Outside HEADER and BODY a byte changes nothing (R44). -/
theorem Dec.byte_of_not_accepts {d : Dec} (b : Byte) (h : d.accepts = false) : d.byte b = (d, []) := by
  unfold Dec.accepts at h
  unfold Dec.byte
  cases hs : d.st <;> simp_all

/-- The decoder after a byte sequence, with the pixels put. -/
def Dec.bytes : List Byte → Dec → Dec × List Pixel
  | [], d => (d, [])
  | b :: bs, d => ((Dec.bytes bs (d.byte b).1).1, (d.byte b).2 ++ (Dec.bytes bs (d.byte b).1).2)

/-- A byte sequence moves the position by as many bytes as were accepted, none where the first is not. -/
theorem Dec.bytes_inpos (bs : List Byte) (d : Dec) :
    ∃ k, k ≤ bs.length ∧ (d.accepts = true → 0 < bs.length → 1 ≤ k) ∧
      (Dec.bytes bs d).1.inpos = d.inpos + BitVec.ofNat 64 k := by
  induction bs generalizing d with
  | nil => exact ⟨0, Nat.le_refl _, fun _ h => absurd h (by simp), by simp [Dec.bytes]⟩
  | cons b bs ih =>
    obtain ⟨k, hk, -, hi⟩ := ih (d.byte b).1
    refine ⟨k + (if d.accepts then 1 else 0), ?_, ?_, ?_⟩
    · simp only [List.length_cons]
      split <;> omega
    · intro h _
      rw [if_pos h]
      omega
    · simp only [Dec.bytes]
      rw [hi, Dec.byte_inpos]
      split
      · rw [Nat.add_comm k 1, BitVec.ofNat_add, BitVec.add_assoc]
      · simp

/-- Offering a byte sequence is one `putAll` of what it makes of the decoder. -/
theorem offerBytes_eq_putAll (bs : List Byte) (s : State) (hl : bs.length < posMax) :
    offerBytes bs s = putAll s (Dec.bytes bs s.dec) := by
  induction bs generalizing s with
  | nil =>
    rw [offerBytes, putAll_of_room (n := 0) (by simp [Dec.bytes]) (by simp [posMax]; exact s.dec.inpos.isLt)]
    simp [Dec.bytes]
  | cons b bs ih =>
    simp only [List.length_cons] at hl
    obtain ⟨k, hk, hk1, hi⟩ := Dec.bytes_inpos (b :: bs) s.dec
    simp only [List.length_cons] at hk
    have hb := Dec.byte_inpos s.dec b
    by_cases ha : s.dec.accepts = true
    · rw [if_pos ha] at hb
      have hk1 := hk1 ha (by simp)
      by_cases hroom : s.dec.inpos.toNat + 1 < posMax
      · have h1 : decByte b s = _ := putAll_of_room hb hroom
        simp only [offerBytes, h1]
        rw [ih _ (by omega)]
        obtain ⟨j, hj, -, hj'⟩ := Dec.bytes_inpos bs (s.dec.byte b).1
        have hpos := inpos_toNat hroom
        have hsum : (Dec.bytes (b :: bs) s.dec).1.inpos = s.dec.inpos + BitVec.ofNat 64 (1 + j) := by
          simp only [Dec.bytes]
          rw [hj', hb, BitVec.ofNat_add, BitVec.add_assoc]
        by_cases hr : s.dec.inpos.toNat + (1 + j) < posMax
        · rw [putAll_of_room hsum hr, putAll_of_room (n := j) hj' (by simp only [hb, hpos]; omega)]
          simp [Dec.bytes]
        · rw [putAll_of_full hsum (by omega) (by omega),
            putAll_of_full (n := j) hj' (by omega) (by simp only [hb, hpos]; omega)]
      · have h1 : decByte b s = _ := putAll_of_full hb (by simp [posMax]) (by omega)
        simp only [offerBytes, h1]
        rw [putAll_of_full hi (by omega) (by omega)]
    · have ha : s.dec.accepts = false := by simpa using ha
      have hbyte := Dec.byte_of_not_accepts b ha
      have h1 : decByte b s = .next s := by
        have h0 : s.dec.inpos.toNat + 0 < posMax := by simp only [posMax]; exact s.dec.inpos.isLt
        have := putAll_of_room (s := s) (r := s.dec.byte b) (n := 0) (by simp [hbyte]) h0
        rw [decByte, this, hbyte]
        simp
      simp only [offerBytes, h1]
      rw [ih s (by omega)]
      simp [Dec.bytes, hbyte]

end Sys2Proof.Machine
end

