-- ==== Sys2Proof/Laws/Decoder.lean ====
section
/-! SUPPORT. The decoder's operations by their cases, and each op's bytes taken one at a time (42_decoder.md R171 to
R183). -/

namespace Sys2Proof.Machine

theorem Dec.atOpStart_iff {d : Dec} : d.atOpStart = true ↔ d.st = .body ∧ d.op = .none := by
  simp [Dec.atOpStart]

/-- At an op's start a byte is a first byte (R172). -/
theorem Dec.byte_of_start {d : Dec} (h : d.atOpStart = true) (b : Byte) : d.byte b = (d.accept 1).firstByte b := by
  obtain ⟨h1, h2⟩ := Dec.atOpStart_iff.1 h
  simp [Dec.byte, h1, Dec.bodyByte, h2]

/-- With an op pending a byte is an operand (R172, R174). -/
theorem Dec.byte_of_pending {d : Dec} (h1 : d.st = .body) (h2 : d.op ≠ .none) (b : Byte) :
    d.byte b = (d.accept 1).operand b := by
  simp [Dec.byte, h1, Dec.bodyByte, h2]

theorem Dec.orOverflow_at {d : Dec} (h : d.count = d.target) (r : Dec × List Pixel) :
    d.orOverflow r = (d.raise .readingMorePixels, []) := if_pos h

theorem Dec.orOverflow_below {d : Dec} (h : d.count ≠ d.target) (r : Dec × List Pixel) : d.orOverflow r = r := if_neg h

theorem Dec.runOp_over {d : Dec} {n : BitVec 6} (h : d.target.toNat < d.count.toNat + (n.toNat + 1)) :
    d.runOp n = (d.raise .readingMorePixels, []) := if_pos h

theorem Dec.runOp_fits {d : Dec} {n : BitVec 6} (h : d.count.toNat + (n.toNat + 1) ≤ d.target.toNat) :
    d.runOp n =
      ({ d with count := d.count + BitVec.ofNat 64 (n.toNat + 1) }, List.replicate (n.toNat + 1) d.prev) :=
  if_neg (Nat.not_lt.2 h)

theorem Dec.indexOp_below {d : Dec} (h : d.count ≠ d.target) (i : BitVec 6) :
    d.indexOp i = d.deliver (d.cache.read i) false := if_neg h

theorem Dec.indexOp_at_zero {d : Dec} (h : d.count = d.target) : d.indexOp 0 = (d.endStart, []) := by
  simp [Dec.indexOp, h]

theorem Dec.indexOp_at_other {d : Dec} (h : d.count = d.target) {i : BitVec 6} (hi : i ≠ 0) :
    d.indexOp i = (d.raise .missingEndBytes, []) := by
  rw [Dec.indexOp, if_pos h, if_neg hi]

theorem Dec.endByte_wrong {d : Dec} {b : Byte} (h : b ≠ endExpected d.opn) :
    d.endByte b = d.raise .missingEndBytes := if_pos h

theorem Dec.endByte_last {d : Dec} {b : Byte} (h : b = endExpected d.opn) (hn : d.opn = 6) :
    d.endByte b = { d with opn := d.opn + 1, op := .none, st := .ended } := by
  rw [Dec.endByte, if_neg (not_not.2 h), if_pos (by omega)]

theorem Dec.endByte_right {d : Dec} {b : Byte} (h : b = endExpected d.opn) (hn : d.opn ≠ 6) :
    d.endByte b = { d with opn := d.opn + 1 } := by
  rw [Dec.endByte, if_neg (not_not.2 h), if_neg (by omega)]

theorem Dec.operand_endm {d : Dec} (h : d.op = .endm) (b : Byte) : d.operand b = (d.endByte b, []) := if_pos h

theorem Dec.operand_last {d : Dec} (h : d.op ≠ .endm) (hn : d.opn + 1 = need d.op) (b : Byte) :
    d.operand b = (d.storeOperand b).completeOp := by
  rw [Dec.operand, if_neg h, if_pos (by simpa using hn)]

theorem Dec.operand_more {d : Dec} (h : d.op ≠ .endm) (hn : d.opn + 1 ≠ need d.op) (b : Byte) :
    d.operand b = (d.storeOperand b, []) := by
  rw [Dec.operand, if_neg h, if_neg (by simpa using hn)]

theorem Dec.bytes_cons (d : Dec) (b : Byte) (bs : List Byte) :
    Dec.bytes (b :: bs) d = ((Dec.bytes bs (d.byte b).1).1, (d.byte b).2 ++ (Dec.bytes bs (d.byte b).1).2) := rfl

/-- Where no byte is accepted none of a sequence is. -/
theorem Dec.bytes_of_not_accepts (bs : List Byte) {d : Dec} (h : d.accepts = false) : Dec.bytes bs d = (d, []) := by
  induction bs with
  | nil => rfl
  | cons b bs ih => simp [Dec.bytes_cons, Dec.byte_of_not_accepts b h, ih]

theorem opbuf_set_one (v : Vector Byte 4) (x : Byte) : v.setIfInBounds 0 x = #v[x, v[1], v[2], v[3]] := by
  apply Vector.ext
  intro i hi
  interval_cases i <;> simp

theorem opbuf_set_three (v : Vector Byte 4) (x y z : Byte) :
    ((v.setIfInBounds 0 x).setIfInBounds 1 y).setIfInBounds 2 z = #v[x, y, z, v[3]] := by
  apply Vector.ext
  intro i hi
  interval_cases i <;> simp

theorem opbuf_set_four (v : Vector Byte 4) (x y z w : Byte) :
    (((v.setIfInBounds 0 x).setIfInBounds 1 y).setIfInBounds 2 z).setIfInBounds 3 w = #v[x, y, z, w] := by
  apply Vector.ext
  intro i hi
  interval_cases i <;> simp

/-- A one-byte sequence at an op's start. -/
theorem Dec.bytes_one {d : Dec} (h : d.atOpStart = true) (b : Byte) : Dec.bytes [b] d = (d.accept 1).firstByte b := by
  rw [Dec.bytes_cons, Dec.byte_of_start h]
  simp [Dec.bytes]

/-- A pixel delivered at the end of a step that accepted `n` bytes and otherwise touched only the operand fields. -/
theorem putAll_deliver {s : State} {d : Dec} {n : Nat} (p : Pixel) (k : Bool) (hroom : s.dec.inpos.toNat + n < posMax)
    (hi : d.inpos = s.dec.inpos + BitVec.ofNat 64 n) (hc : d.cache = s.dec.cache) (hcount : d.count = s.dec.count)
    (hop : d.op = .none) (hst : d.st = s.dec.st) (herr : d.err = s.dec.err) (hh : s.dec.SameHeader d) :
    ∃ t, putAll s (d.deliver p k) = .next t ∧ s.Delivered t n p k ∧ t.dec = (d.deliver p k).1 := by
  refine ⟨_, putAll_of_room (n := n) (by simpa using hi) hroom, ?_, rfl⟩
  refine ⟨by simp, by simp, by simp [hcount], ?_, ?_, ?_, by simpa using hop, by simpa using hst, by simpa using herr,
    ?_, ⟨rfl, rfl, rfl, rfl⟩⟩
  · simp only [Dec.deliver_inpos, hi]
    exact inpos_toNat hroom
  · intro hk hw
    subst hk
    simp only [Dec.deliver_cache, hc]
    exact Memory.read_write_same _ _ hw
  · intro i hi'
    cases k with
    | true =>
      simp only [Dec.deliver_cache, hc, if_true]
      exact Memory.read_write_other _ _ (hi' rfl)
    | false => simp [hc]
  · exact hh

/-- A step that accepts one byte and puts nothing. -/
theorem putAll_silent {s : State} {d : Dec} (hroom : s.dec.inpos.toNat + 1 < posMax) (hi : d.inpos = s.dec.inpos + 1) :
    putAll s (d, []) = .next { s with dec := d } := by
  have := putAll_of_room (s := s) (r := (d, [])) (n := 1) (by simpa using hi) hroom
  simpa using this

end Sys2Proof.Machine
end

