-- ==== Sys2Proof/Laws/Encoder.lean ====
section
/-! SUPPORT. The encoder's operations by their cases, with the bytes each emits (41_encoder.md R140 to R155). -/

namespace Sys2Proof.Machine

@[simp] theorem opBytes_nil : opBytes [] = [] := rfl

theorem opBytes_one (i : Instr) : opBytes [i] = encode i := by
  simp [opBytes]

theorem opBytes_append (as bs : List Instr) : opBytes (as ++ bs) = opBytes as ++ opBytes bs := by
  simp [opBytes]

/-- The 62nd repeat emits the full run and starts anew (R143). -/
theorem Enc.runStep_full {e : Enc} (h : e.run.toNat = 61) : e.runStep = ({ e with run := 0 }, [.run 61]) := by
  have : e.run = 61 := BitVec.eq_of_toNat_eq h
  simp [Enc.runStep, this]

/-- Any other repeat is only counted (R143). -/
theorem Enc.runStep_more {e : Enc} (h : e.run.toNat ≠ 61) : e.runStep = ({ e with run := e.run + 1 }, []) := by
  exact if_neg fun hc => h (by rw [eq_sub_of_add_eq hc]; rfl)

/-- A flush leaves no repeat pending and changes nothing else (R144). -/
theorem Enc.runFlush_fst (e : Enc) : e.runFlush.1 = { e with run := 0 } := by
  unfold Enc.runFlush
  split
  · rename_i h
    cases e
    simp_all
  · rfl

/-- A flush emits the pending run's byte (R144). -/
theorem opBytes_runFlush (e : Enc) : opBytes e.runFlush.2 = runBytes e.run := by
  unfold Enc.runFlush runBytes
  split <;> simp [opBytes, encode]

theorem runBytes_zero : runBytes 0 = [] := rfl

theorem runBytes_length_le (n : BitVec 6) : (runBytes n).length ≤ 1 := by
  unfold runBytes
  split <;> simp

/-- A miss emits one to five bytes (R147 to R150, R155). -/
theorem encode_missOp_length_le (q p : Pixel) : (encode (missOp q p)).length ≤ 5 := by
  unfold missOp
  repeat' split
  all_goals simp [encode]

theorem Enc.opFor_hit {e : Enc} {p : Pixel} (h : e.cache.read (pixelHash p) = p) :
    e.opFor p = ({ e with prev := p }, [.index (pixelHash p)]) := if_pos h

theorem Enc.opFor_miss {e : Enc} {p : Pixel} (h : e.cache.read (pixelHash p) ≠ p) :
    e.opFor p = ({ e with prev := p, cache := e.cache.write (pixelHash p) p }, [missOp e.prev p]) := if_neg h

theorem Enc.pixelOps_repeat {e : Enc} {p : Pixel} (h : p = e.prev) : e.pixelOps p = e.runStep := if_pos h

/-- A pixel that is no repeat flushes the run first (R142). -/
theorem Enc.pixelOps_new {e : Enc} {p : Pixel} (h : p ≠ e.prev) :
    e.pixelOps p = (({ e with run := 0 }.opFor p).1, e.runFlush.2 ++ ({ e with run := 0 }.opFor p).2) := by
  rw [← Enc.runFlush_fst]
  exact if_neg h

theorem Enc.pixelOps_hit {e : Enc} {p : Pixel} (h : p ≠ e.prev) (hc : e.cache.read (pixelHash p) = p) :
    e.pixelOps p = ({ e with run := 0, prev := p }, e.runFlush.2 ++ [.index (pixelHash p)]) := by
  rw [Enc.pixelOps_new h, Enc.opFor_hit (e := { e with run := 0 }) hc]

theorem Enc.pixelOps_miss {e : Enc} {p : Pixel} (h : p ≠ e.prev) (hc : e.cache.read (pixelHash p) ≠ p) :
    e.pixelOps p =
      ({ e with run := 0, prev := p, cache := e.cache.write (pixelHash p) p },
        e.runFlush.2 ++ [missOp e.prev p]) := by
  rw [Enc.pixelOps_new h, Enc.opFor_miss (e := { e with run := 0 }) hc]

/-- The pixel's part of the step leaves everything but the run, the previous pixel and the cache alone. -/
theorem Enc.pixelOps_keeps (e : Enc) (p : Pixel) :
    (e.pixelOps p).1 =
        { e with prev := p, run := (e.pixelOps p).1.run, cache := (e.pixelOps p).1.cache } ∧
      ((e.pixelOps p).1.cache = e.cache ∨ (e.pixelOps p).1.cache = e.cache.write (pixelHash p) p) := by
  by_cases h : p = e.prev
  · rw [Enc.pixelOps_repeat h]
    by_cases hr : e.run.toNat = 61
    · rw [Enc.runStep_full hr, h]
      exact ⟨rfl, .inl rfl⟩
    · rw [Enc.runStep_more hr, h]
      exact ⟨rfl, .inl rfl⟩
  · by_cases hc : e.cache.read (pixelHash p) = p
    · rw [Enc.pixelOps_hit h hc]
      exact ⟨rfl, .inl rfl⟩
    · rw [Enc.pixelOps_miss h hc]
      exact ⟨rfl, .inr rfl⟩

/-- The pixel's part emits at most six bytes, and with the run still pending after it counted, at most six (R155). -/
theorem Enc.pixelOps_length_le (e : Enc) (p : Pixel) :
    (opBytes (e.pixelOps p).2).length + (runBytes (e.pixelOps p).1.run).length ≤ 6 := by
  by_cases h : p = e.prev
  · rw [Enc.pixelOps_repeat h]
    by_cases hr : e.run.toNat = 61
    · rw [Enc.runStep_full hr]
      simp [opBytes, encode, runBytes]
    · rw [Enc.runStep_more hr]
      have := runBytes_length_le (e.run + 1)
      simp only [opBytes_nil, List.length_nil]
      omega
  · have hf := runBytes_length_le e.run
    by_cases hc : e.cache.read (pixelHash p) = p
    · rw [Enc.pixelOps_hit h hc, opBytes_append, opBytes_runFlush, opBytes_one]
      simp only [runBytes_zero, List.length_append, List.length_nil, encode, List.length_cons]
      omega
    · have := encode_missOp_length_le e.prev p
      rw [Enc.pixelOps_miss h hc, opBytes_append, opBytes_runFlush, opBytes_one]
      simp only [runBytes_zero, List.length_append, List.length_nil]
      omega

theorem Enc.countPixel_more {e : Enc} (h : e.count + 1 ≠ e.target) :
    e.countPixel = ({ e with count := e.count + 1 }, []) := if_neg h

theorem Enc.countPixel_last {e : Enc} (h : e.count + 1 = e.target) :
    e.countPixel = { e with count := e.count + 1 }.finalize := if_pos h

/-- A pixel that leaves the image open (R152). -/
theorem Enc.pixel_more {e : Enc} (p : Pixel) (h : e.count + 1 ≠ e.target) :
    e.pixel p = ({ (e.pixelOps p).1 with count := e.count + 1 }, (e.pixelOps p).2) := by
  have hk := (Enc.pixelOps_keeps e p).1
  have h1 : (e.pixelOps p).1.count = e.count := by rw [hk]
  have h2 : (e.pixelOps p).1.target = e.target := by rw [hk]
  have h3 : (e.pixelOps p).1.count + 1 ≠ (e.pixelOps p).1.target := by rwa [h1, h2]
  rw [Enc.pixel, Enc.countPixel_more h3, List.append_nil, h1]

/-- The pixel that completes the image (R152, R153). -/
theorem Enc.pixel_last {e : Enc} (p : Pixel) (h : e.count + 1 = e.target) :
    (e.pixel p).1 = { (e.pixelOps p).1 with count := e.count + 1, run := 0, st := .done } ∧
      opBytes (e.pixel p).2 =
        opBytes (e.pixelOps p).2 ++ runBytes (e.pixelOps p).1.run ++ [0#8, 0#8, 0#8, 0#8, 0#8, 0#8, 0#8, 1#8] := by
  have hk := (Enc.pixelOps_keeps e p).1
  have h1 : (e.pixelOps p).1.count = e.count := by rw [hk]
  have h2 : (e.pixelOps p).1.target = e.target := by rw [hk]
  have h3 : (e.pixelOps p).1.count + 1 = (e.pixelOps p).1.target := by rwa [h1, h2]
  rw [Enc.pixel, Enc.countPixel_last h3, h1, Enc.finalize, Enc.runFlush_fst]
  refine ⟨rfl, ?_⟩
  rw [opBytes_append, opBytes_append, opBytes_runFlush, opBytes_one, List.append_assoc]
  rfl

end Sys2Proof.Machine
end

