-- ==== Sys2Proof/Laws/PerInstr.lean ====
section
/-! SUPPORT. Family FirstByte: an op that exists begins with a byte that names it, and is as long as that byte says
(30_encoding.md R92, R93), one lemma per constructor. -/

namespace Sys2Proof.Laws.FirstByte

/-- An op that exists, or an END row, begins with a byte that names it in its own context, and has that name's length. -/
def Statement (i : Instr) : Prop :=
  i.wf = true ∨ i.isEnd = true →
    ∃ b bs, encode i = b :: bs ∧ opOf i.isEnd b = i.opName ∧ (encode i).length = i.opName.length

theorem rgb (r g b : Byte) : Statement (.rgb r g b) := fun _ => ⟨_, _, rfl, opOf_fe _, rfl⟩

theorem rgba (r g b a : Byte) : Statement (.rgba r g b a) := fun _ => ⟨_, _, rfl, opOf_ff _, rfl⟩

theorem run (n : BitVec 6) : Statement (.run n) := fun h =>
  ⟨_, _, rfl, opOf_run _ n (by simpa [Instr.wf, Instr.isEnd] using h), rfl⟩

theorem index (i : BitVec 6) : Statement (.index i) := fun _ => ⟨_, _, rfl, opOf_index _ i (fun _ => rfl), rfl⟩

theorem diff (rr gg bb : BitVec 2) : Statement (.diff rr gg bb) := fun _ =>
  ⟨_, _, rfl, opOf_diff _ rr gg bb, rfl⟩

theorem luma (gg : BitVec 6) (xx yy : BitVec 4) : Statement (.luma gg xx yy) := fun _ =>
  ⟨_, _, rfl, opOf_luma _ gg, rfl⟩

theorem endMarker (b1 b2 b3 b4 b5 b6 b7 : Byte) : Statement (.endMarker b1 b2 b3 b4 b5 b6 b7) := fun _ =>
  ⟨_, _, rfl, opOf_zero_atTarget, rfl⟩

end Sys2Proof.Laws.FirstByte
end

