-- ==== Sys2Proof/Laws/Step.lean ====
section
/-! SUPPORT. What an event and a step can do, said once: each engine's events as functions of that engine alone, and the
two kinds of step (00_scope.md R12; 10_state.md R20, R44; 20_memory.md R80). -/

namespace Sys2Proof.Machine

/-- The answer of an ENC event, from the engine it leaves and the bytes it emits. -/
def encAnswer (s : State) : Except Refusal (Enc × List Byte) → Result
  | .ok r => .next { s with enc := r.1, out := s.out ++ r.2 }
  | .error r => .refused r

/-- The answer of a DEC event, from the engine it leaves and the pixels it puts. -/
def decAnswer (s : State) : Except Refusal (Dec × List Pixel) → Result
  | .ok r => .next { s with dec := r.1, pout := s.pout ++ r.2.map (lane Config.pixelOrderDec) }
  | .error r => .refused r

/-- `emit` depends on the engine it is given alone. -/
theorem emit_eq_encAnswer (s : State) (e : Enc) (bs : List Byte) :
    emit s e bs =
      encAnswer s
        (if e.outpos.toNat + bs.length < posMax then
          .ok ({ e with outpos := e.outpos + BitVec.ofNat 64 bs.length }, bs)
        else .error .positionOverflow) := by
  unfold emit
  split <;> rfl

/-- `putAll` depends on the decoder alone. -/
theorem putAll_eq_decAnswer (s : State) (r : Dec × List Pixel) :
    putAll s r =
      decAnswer s
        (if s.dec.inpos.toNat + (r.1.inpos - s.dec.inpos).toNat < posMax then .ok r else .error .positionOverflow) := by
  unfold putAll
  split <;> rfl

theorem next_eq_encAnswer (s : State) : (.next s : Result) = encAnswer s (.ok (s.enc, [])) := by
  simp [encAnswer]

theorem next_eq_decAnswer (s : State) : (.next s : Result) = decAnswer s (.ok (s.dec, [])) := by
  simp [decAnswer]

theorem encStart_eq : ∃ f : Enc → Except Refusal (Enc × List Byte), ∀ s : State, encStart s = encAnswer s (f s.enc) := by
  refine ⟨fun e =>
    if e.st = .body then .error .encStartWhileBusy
    else if (legalChannels e.cfgChannels && legalColorspace e.cfgColorspace) = false then .error .encStartIllegalTags
    else if e.cfgPixlen ≠ area e.cfgWidth e.cfgHeight then
      .ok (e.clearForStart.raise .dimensionsMismatchPixelsLength, [])
    else
      if e.clearForStart.startEncode.finishIfEmpty.1.outpos.toNat +
          (e.header ++ opBytes e.clearForStart.startEncode.finishIfEmpty.2).length < posMax then
        .ok ({ e.clearForStart.startEncode.finishIfEmpty.1 with
            outpos := e.clearForStart.startEncode.finishIfEmpty.1.outpos +
              BitVec.ofNat 64 (e.header ++ opBytes e.clearForStart.startEncode.finishIfEmpty.2).length },
          e.header ++ opBytes e.clearForStart.startEncode.finishIfEmpty.2)
      else .error .positionOverflow, fun s => ?_⟩
  simp only [encStart, emit_eq_encAnswer]
  split_ifs <;> simp [encAnswer]

theorem decStart_eq : ∃ f : Dec → Except Refusal (Dec × List Pixel), ∀ s : State, decStart s = decAnswer s (f s.dec) := by
  refine ⟨fun d =>
    match d.st with
    | .header => .error .decStartWhileBusy
    | .body => .error .decStartWhileBusy
    | .idle => .ok (d.start, [])
    | .ended => .ok (d.start, [])
    | .error => .ok (d.start, []), fun s => ?_⟩
  unfold decStart
  cases h : s.dec.st <;> simp [decAnswer, h]

/-- An ENC event is a function of the encoder alone: it never touches the decoder, `POUT` or what is pending. -/
theorem event_forEnc {ev : Event} (h : ev.forEnc = true) : ∃ f : Enc → Except Refusal (Enc × List Byte), ∀ s : State, event ev s = encAnswer s (f s.enc) := by
  cases ev with
  | encStart => exact encStart_eq
  | encPixel w =>
    refine ⟨fun e =>
      if e.st = .body then
        if (e.pixel (unlane Config.pixelOrderEnc w)).1.outpos.toNat +
            (opBytes (e.pixel (unlane Config.pixelOrderEnc w)).2).length < posMax then
          .ok ({ (e.pixel (unlane Config.pixelOrderEnc w)).1 with
              outpos := (e.pixel (unlane Config.pixelOrderEnc w)).1.outpos +
                BitVec.ofNat 64 (opBytes (e.pixel (unlane Config.pixelOrderEnc w)).2).length },
            opBytes (e.pixel (unlane Config.pixelOrderEnc w)).2)
        else .error .positionOverflow
      else .error .encPixelOutsideBody, fun s => ?_⟩
    simp only [event, encPixel, emit_eq_encAnswer]
    split <;> rfl
  | encIoErr =>
    refine ⟨fun e =>
      match e.st with
      | .body => .ok (e.raise .ioError, [])
      | .done => .ok (e.raise .ioError, [])
      | .idle => .ok (e, [])
      | .error => .ok (e, []), fun s => ?_⟩
    simp only [event, encIoErr]
    cases s.enc.st <;> simp [encAnswer]
  | encWrite r v =>
    cases r with
    | ctrl =>
      obtain ⟨f, hf⟩ := encStart_eq
      refine ⟨fun e => if v.getLsbD 0 then f e else .ok (e, []), fun s => ?_⟩
      simp only [event, encWrite, hf, next_eq_encAnswer s]
      split <;> rfl
    | width => exact ⟨fun e => .ok ({ e with cfgWidth := v.setWidth 32 }, []), fun s => by simp [event, encWrite, encAnswer]⟩
    | height => exact ⟨fun e => .ok ({ e with cfgHeight := v.setWidth 32 }, []), fun s => by simp [event, encWrite, encAnswer]⟩
    | channels => exact ⟨fun e => .ok ({ e with cfgChannels := v.setWidth 8 }, []), fun s => by simp [event, encWrite, encAnswer]⟩
    | colorspace =>
      exact ⟨fun e => .ok ({ e with cfgColorspace := v.setWidth 8 }, []), fun s => by simp [event, encWrite, encAnswer]⟩
    | pixlen => exact ⟨fun e => .ok ({ e with cfgPixlen := v }, []), fun s => by simp [event, encWrite, encAnswer]⟩
    | status => exact ⟨fun e => .ok (e, []), next_eq_encAnswer⟩
    | count => exact ⟨fun e => .ok (e, []), next_eq_encAnswer⟩
    | outpos => exact ⟨fun e => .ok (e, []), next_eq_encAnswer⟩
  | decStart => cases h
  | decByte b => cases h
  | decEos => cases h
  | decIoErr => cases h
  | decWrite r v => cases h
  | reset => cases h

/-- A DEC event is a function of the decoder alone: it never touches the encoder, `OUT` or what is pending. -/
theorem event_forDec {ev : Event} (h : ev.forDec = true) : ∃ f : Dec → Except Refusal (Dec × List Pixel), ∀ s : State, event ev s = decAnswer s (f s.dec) := by
  cases ev with
  | decStart => exact decStart_eq
  | decByte b =>
    exact ⟨fun d =>
      if d.inpos.toNat + ((d.byte b).1.inpos - d.inpos).toNat < posMax then .ok (d.byte b) else .error .positionOverflow,
      fun s => putAll_eq_decAnswer s (s.dec.byte b)⟩
  | decEos =>
    refine ⟨fun d =>
      match d.st with
      | .header => .ok (d.headerEos, [])
      | .body => .ok (d.raise .missingEndBytes, [])
      | .idle => .ok (d, [])
      | .ended => .ok (d, [])
      | .error => .ok (d, []), fun s => ?_⟩
    simp only [event, decEos]
    cases s.dec.st <;> simp [decAnswer]
  | decIoErr =>
    refine ⟨fun d =>
      match d.st with
      | .header => .ok (d.raise .ioError, [])
      | .body => .ok (d.raise .ioError, [])
      | .idle => .ok (d, [])
      | .ended => .ok (d, [])
      | .error => .ok (d, []), fun s => ?_⟩
    simp only [event, decIoErr]
    cases s.dec.st <;> simp [decAnswer]
  | decWrite r v =>
    obtain ⟨f, hf⟩ := decStart_eq
    cases r with
    | ctrl =>
      refine ⟨fun d => if v.getLsbD 0 then f d else .ok (d, []), fun s => ?_⟩
      simp only [event, decWrite, hf, next_eq_decAnswer s]
      split <;> rfl
    | status => exact ⟨fun d => .ok (d, []), next_eq_decAnswer⟩
    | width => exact ⟨fun d => .ok (d, []), next_eq_decAnswer⟩
    | height => exact ⟨fun d => .ok (d, []), next_eq_decAnswer⟩
    | channels => exact ⟨fun d => .ok (d, []), next_eq_decAnswer⟩
    | colorspace => exact ⟨fun d => .ok (d, []), next_eq_decAnswer⟩
    | target => exact ⟨fun d => .ok (d, []), next_eq_decAnswer⟩
    | count => exact ⟨fun d => .ok (d, []), next_eq_decAnswer⟩
    | inpos => exact ⟨fun d => .ok (d, []), next_eq_decAnswer⟩
  | encStart => cases h
  | encPixel w => cases h
  | encIoErr => cases h
  | encWrite r v => cases h
  | reset => cases h

/-- Every event is the encoder's, the decoder's or a reset. -/
theorem Event.cases_for (ev : Event) : ev.forEnc = true ∨ ev.forDec = true ∨ ev = .reset := by
  cases ev <;> simp [Event.forEnc, Event.forDec]

/-- The bytes lined up are the first events. -/
theorem leadingBytes_split (evs : List Event) : ∃ rest, evs = (leadingBytes evs).map Event.decByte ++ rest := by
  induction evs with
  | nil => exact ⟨[], rfl⟩
  | cons ev evs ih =>
    cases ev with
    | decByte b =>
      obtain ⟨rest, hr⟩ := ih
      exact ⟨rest, by rw [leadingBytes, List.map_cons, List.cons_append, ← hr]⟩
    | encStart => exact ⟨_, rfl⟩
    | encPixel w => exact ⟨_, rfl⟩
    | encIoErr => exact ⟨_, rfl⟩
    | encWrite r v => exact ⟨_, rfl⟩
    | decStart => exact ⟨_, rfl⟩
    | decEos => exact ⟨_, rfl⟩
    | decIoErr => exact ⟨_, rfl⟩
    | decWrite r v => exact ⟨_, rfl⟩
    | reset => exact ⟨_, rfl⟩

/-- What `fetch` answers when it answers an op. -/
theorem fetch_some {s : State} {i : Instr} (h : fetch s = some i) :
    s.dec.atOpStart = true ∧ ∃ rest, decode s.dec.atTarget (leadingBytes s.pending) = .ok (i, rest) := by
  unfold fetch at h
  split at h
  · refine ⟨‹_›, ?_⟩
    split at h
    · cases h
      exact ⟨_, ‹_›⟩
    · cases h
  · cases h

/-- Everything a step can answer with a next state: the op lined up, or one event. -/
theorem step_next {s t : State} (h : step s = .next t) :
    (∃ i, fetch s = some i ∧ exec i { s with pending := s.pending.drop (encode i).length } = .next t) ∨
      ∃ ev evs, fetch s = none ∧ s.pending = ev :: evs ∧ event ev { s with pending := evs } = .next t := by
  unfold step at h
  split at h
  · exact .inl ⟨_, ‹_›, h⟩
  · rename_i hf hp
    refine .inr ⟨_, _, hf, hp, ?_⟩
    simpa [State.take, hp] using h
  · cases h

end Sys2Proof.Machine
end

