-- ==== Sys2Proof/Tests/Slice0.lean ====
section
/-! SUPPORT. Own tests: the existence checks with ill-formed ops, words written out bit by bit from the formats of
30_encoding.md, single steps whose results stand in 95_test_vectors.md or in a rule's own example, and for each
statement that has hypotheses a state that meets them. -/

namespace Sys2Proof.Machine

/-! ### States the tests start from -/

/-- The decoder after a step, if there is one. -/
def decAfter : Result → Option Dec
  | .next t => some t.dec
  | .fault _ => none
  | .refused _ => none

/-- The encoder after a step, if there is one. -/
def encAfter : Result → Option Enc
  | .next t => some t.enc
  | .fault _ => none
  | .refused _ => none

/-- The bytes emitted by a step, if there is one. -/
def outAfter : Result → Option (List Byte)
  | .next t => some t.out
  | .fault _ => none
  | .refused _ => none

/-- DEC in BODY at an op's start, a one-row image of `target` pixels of which `count` are put. -/
def bodyAt (count target : BitVec 64) : State :=
  { State.reset with
    dec := { Dec.reset with
      st := .body
      hpos := 14
      width := target.setWidth 32
      height := 1
      channels := 4
      target := target
      count := count
      prev := Pixel.initPrev
      inpos := 14 }
    pout := List.replicate count.toNat ⟨0, 0, 0, 0⟩ }

/-- The same, `n` bytes short of the last position. -/
def bodyAtEdge (count target : BitVec 64) (n : Nat) : State :=
  { bodyAt count target with dec := { (bodyAt count target).dec with inpos := BitVec.ofNat 64 (posMax - 1 - n) } }

/-- DEC in BODY with an op pending. -/
def pendingAt (count target : BitVec 64) (op : PendingOp) (opn : Nat) : State :=
  { bodyAt count target with
    dec := { (bodyAt count target).dec with op := op, optag := 0x80, opn := opn, opbuf := #v[1, 2, 3, 4], inpos := 30 } }

/-- DEC in HEADER with the right bytes in up to `hpos`. -/
def headerAt (hpos : Nat) : State :=
  { State.reset with
    dec := { Dec.reset with
      st := .header
      hpos := hpos
      hbuf := #v[0x71, 0x6F, 0x69, 0x66, 1, 2, 3, 4, 0, 0, 0, 5, 4, 0]
      prev := Pixel.initPrev
      inpos := BitVec.ofNat 64 hpos } }

/-- DEC owed header byte 13 of an image of width 0. -/
def emptyHeader : State :=
  { headerAt 13 with
    dec := { (headerAt 13).dec with hbuf := #v[0x71, 0x6F, 0x69, 0x66, 0, 0, 0, 0, 0, 0, 0, 5, 4, 0] } }

/-- DEC in a state that accepts no byte. -/
def decIn (st : DecSt) : State :=
  { State.reset with dec := { Dec.reset with st := st, err := if st = .error then .ioError else .none } }

/-- ENC not in BODY, configured for `w` by `h` pixels of 4 channels. -/
def configured (w h : BitVec 32) (pixlen : BitVec 64) : State :=
  { State.reset with
    enc := { Enc.reset with cfgWidth := w, cfgHeight := h, cfgChannels := 4, cfgPixlen := pixlen } }

/-- ENC in BODY, `count` of `target` pixels taken, `run` repeats of the initial pixel pending. -/
def encodingAt (count target : BitVec 64) (run : BitVec 6) (cache : Memory) : State :=
  { State.reset with
    enc := { Enc.reset with
      st := .body
      prev := Pixel.initPrev
      cache := cache
      run := run
      count := count
      target := target
      outpos := 14 }
    out := List.replicate 14 0 }

/-- The port word of a pixel on the ENC pixel port. -/
def encWord (p : Pixel) : Lanes := lane Config.pixelOrderEnc p

/-- Pixel A of 95_test_vectors.md section 2; its slot is 9. -/
def pixelA : Pixel := ⟨10, 20, 30, 255⟩

/-! ### Which ops exist (R96, R100, R103) -/

theorem test_run_61_exists : (Instr.run 61).wf = true := by decide

theorem test_run_62_and_63_do_not_exist : (Instr.run 62).wf = false ∧ (Instr.run 63).wf = false := by decide

theorem test_end_marker_exists : Instr.theEnd.wf = true := by decide

/-- One wrong byte in each of the seven places. -/
theorem test_end_marker_wrong_bytes :
    (Instr.endMarker 1 0 0 0 0 0 1).wf = false ∧ (Instr.endMarker 0 1 0 0 0 0 1).wf = false ∧
    (Instr.endMarker 0 0 1 0 0 0 1).wf = false ∧ (Instr.endMarker 0 0 0 1 0 0 1).wf = false ∧
    (Instr.endMarker 0 0 0 0 1 0 1).wf = false ∧ (Instr.endMarker 0 0 0 0 0 1 1).wf = false ∧
    (Instr.endMarker 0 0 0 0 0 0 0).wf = false := by decide

/-! ### Words written out from the formats (R94 to R100) -/

/-- RGB: `11111110 rrrrrrrr gggggggg bbbbbbbb`. -/
theorem test_decode_rgb :
    decode false [0b11111110#8, 0b00010010#8, 0b00110100#8, 0b01010110#8] = .ok (.rgb 0x12 0x34 0x56, []) := by decide

/-- RGBA: `11111111 rrrrrrrr gggggggg bbbbbbbb aaaaaaaa`. -/
theorem test_decode_rgba :
    decode false [0b11111111#8, 0b00000001#8, 0b00000010#8, 0b00000011#8, 0b10000000#8] =
      .ok (.rgba 1 2 3 128, []) := by decide

/-- RUN: `11nnnnnn`; `FD` is the longest (R96). -/
theorem test_decode_run :
    decode false [0b11000000#8] = .ok (.run 0, []) ∧ decode false [0b11111101#8] = .ok (.run 61, []) := by decide

/-- INDEX: `00iiiiii`. -/
theorem test_decode_index :
    decode false [0b00101010#8] = .ok (.index 42, []) ∧ decode true [0b00111111#8] = .ok (.index 63, []) := by decide

/-- DIFF: `01rrggbb`. -/
theorem test_decode_diff : decode false [0b01111001#8] = .ok (.diff 3 2 1, []) := by decide

/-- LUMA: `10gggggg xxxxyyyy`. -/
theorem test_decode_luma : decode false [0b10111111#8, 0b11110000#8] = .ok (.luma 63 15 0, []) := by decide

/-- END: seven bytes `00` and a byte `01`, at the target; below it the first byte is INDEX 0 (R92). -/
theorem test_decode_end :
    decode true
        [0b00000000#8, 0b00000000#8, 0b00000000#8, 0b00000000#8, 0b00000000#8, 0b00000000#8, 0b00000000#8,
          0b00000001#8] = .ok (.theEnd, []) ∧
      decode false [0b00000000#8, 0b00000001#8] = .ok (.index 0, [0b00000001#8]) := by decide

/-- Bytes that are no whole op yet, refused by name. -/
theorem test_decode_missing_operands :
    decode false [] = .error .noByte ∧ decode false [0xFE#8, 1#8, 2#8] = .error (.operandsMissing .rgb) ∧
    decode false [0xFF#8, 1#8, 2#8, 3#8] = .error (.operandsMissing .rgba) ∧
    decode false [0x80#8] = .error (.operandsMissing .luma) ∧
    decode true [0#8, 0#8, 0#8, 0#8, 0#8, 0#8, 0#8] = .error (.operandsMissing .endMarker) := by decide

/-- The bytes of program P1 (95_test_vectors.md section 5). -/
theorem test_encode_p1 :
    opBytes [.rgb 100 150 200, .diff 3 1 2, .luma 37 5 10, .index 7, .run 1, .rgba 0 0 0 0, .index 5, .theEnd] =
      [0xFE, 0x64, 0x96, 0xC8, 0x76, 0xA5, 0x5A, 0x07, 0xC1, 0xFF, 0, 0, 0, 0, 0x05, 0, 0, 0, 0, 0, 0, 0, 1] := by
  decide

/-- `REPEAT n` (R107): one RUN of 62, a full one and one more, two full ones. -/
theorem test_repeat :
    repeatOp 62 = [.run 61] ∧ repeatOp 63 = [.run 61, .run 0] ∧ repeatOp 124 = [.run 61, .run 61] := by decide

/-! ### Words of the opcode table, and the step that runs them -/

theorem test_table_words :
    decodeTableWord 32 0x563412FE = some (.rgb 0x12 0x34 0x56) ∧ decodeTableWord 8 0xFE = some (.rgb 0 0 0) ∧
    decodeTableWord 40 0x80000000FF = some (.rgba 0 0 0 128) ∧ decodeTableWord 8 0xC2 = some (.run 2) ∧
    decodeTableWord 8 0x2A = some (.index 42) ∧ decodeTableWord 8 0x79 = some (.diff 3 2 1) ∧
    decodeTableWord 16 0xF0BF = some (.luma 63 15 0) ∧
    decodeTableWord 64 0x0100000000000000 = some .theEnd := by decide

/-- Right after reset the step runs RGB as its first op: the pixel is the previous one. -/
theorem test_first_step_rgb :
    (decAfter (step (State.reset.withFetchWord 32 0x563412FE))).map Dec.prev = some ⟨0x12, 0x34, 0x56, 0⟩ := by decide

/-- Right after reset the step runs END as its first op. -/
theorem test_first_step_end :
    (decAfter (step (State.reset.withFetchWord 64 0x0100000000000000))).map Dec.st = some .ended := by decide

/-- Right after reset the step runs the longest RUN as its first op. -/
theorem test_first_step_run :
    (decAfter (step (State.reset.withFetchWord 8 0xFD))).map Dec.count = some 62 := by decide

/-! ### Operand forms -/

/-- The hash examples of 20_memory.md R61 and 95_test_vectors.md section 2. -/
theorem test_hash :
    pixelHash ⟨0, 0, 0, 0⟩ = 0 ∧ pixelHash ⟨0, 0, 0, 255⟩ = 53 ∧ pixelHash ⟨0x12, 0x34, 0x56, 0xFF⟩ = 9 ∧
    pixelHash ⟨5, 5, 5, 255⟩ = 0 ∧ pixelHash ⟨100, 150, 200, 255⟩ = 7 ∧ pixelHash ⟨6, 4, 5, 255⟩ = 62 := by decide

/-- 10_state.md R25: lane 0 first. -/
theorem test_lanes :
    lane .argb ⟨1, 2, 3, 4⟩ = ⟨4, 1, 2, 3⟩ ∧ unlane .bgra ⟨1, 2, 3, 4⟩ = ⟨3, 2, 1, 4⟩ := by decide

/-- R24, R68: the host reads the output streams in order, and nothing past what was output; 20_memory.md R75. -/
theorem test_bus_streams (v : BusWord) :
    let s := { State.reset with out := [0x71, 0x6F], pout := [⟨1, 2, 3, 4⟩] }
    attachedRead .outPort ⟨1, 0⟩ s = some (Config.busWordOfByte 0x6F, ⟨2, 0⟩) ∧
    attachedRead .outPort ⟨2, 0⟩ s = none ∧
    attachedRead .poutPort ⟨0, 0⟩ s = some (Config.busWordOfLanes ⟨1, 2, 3, 4⟩, ⟨0, 1⟩) ∧
    attachedWrite .outPort v = none := ⟨rfl, rfl, rfl, rfl⟩

/-- R31, R38, R44: register 2 of ENC is ENC_WIDTH, register 9 is none, and a command input takes any word. -/
theorem test_bus_writes (v : BusWord) :
    attachedWrite (.encRegister 2) v = some (.encWrite .width v) ∧ attachedWrite (.decRegister 9) v = none ∧
    attachedWrite .decEosInput v = some .decEos := ⟨rfl, rfl, rfl⟩

/-- A header integer of vector H10: big-endian. -/
theorem test_big_endian : (be32 1 2 3 4).toNat = 16909060 := by decide

/-- A write, its read back, and that a `ZERO` pixel leaves no entry. -/
theorem test_cache :
    (Memory.write [] 9 pixelA).read 9 = pixelA ∧ (Memory.write [(9, pixelA)] 9 Pixel.zero) = [] ∧
    (Memory.write [(9, pixelA)] 3 pixelA) = [(3, pixelA), (9, pixelA)] := by decide

/-! ### Single steps of the decoder (95_test_vectors.md section 4) -/

/-- D18: RGB keeps the previous alpha. -/
theorem test_rgb_keeps_alpha :
    (decAfter (exec (.rgb 9 9 9)
      { bodyAt 1 2 with dec := { (bodyAt 1 2).dec with prev := ⟨1, 2, 3, 4⟩ } })).map Dec.prev =
        some ⟨9, 9, 9, 4⟩ := by decide

/-- D3: RGB at the target raises at its tag. -/
theorem test_rgb_at_target :
    (decAfter (exec (.rgb 1 2 3) (bodyAt 1 1))).map (fun d => (d.err, d.count, d.inpos)) =
      some (.readingMorePixels, 1, 15) := by decide

/-- 1.1: the pixel goes to slot 9. -/
theorem test_rgb_stores :
    (decAfter (exec (.rgb 0x12 0x34 0x56) (bodyAt 0 1))).map Dec.cache =
      some [(9, ⟨0x12, 0x34, 0x56, 0xFF⟩)] := by decide

/-- D18: RGBA. -/
theorem test_rgba :
    (decAfter (exec (.rgba 1 2 3 4) (bodyAt 0 2))).map Dec.prev = some ⟨1, 2, 3, 4⟩ := by decide

/-- D1: a RUN to the exact target puts three copies. -/
theorem test_run_to_target :
    ∃ t, exec (.run 2) (bodyAt 0 3) = .next t ∧ t.dec.count = 3 ∧
      t.pout = List.replicate 3 (lane Config.pixelOrderDec ⟨0, 0, 0, 255⟩) := ⟨_, rfl, by decide, rfl⟩

/-- D2: a RUN past the target puts nothing. -/
theorem test_run_past_target :
    (decAfter (exec (.run 2) (bodyAt 0 2))).map (fun d => (d.err, d.count, d.inpos)) =
      some (.readingMorePixels, 0, 15) := by decide

/-- D11: an unwritten slot gives `ZERO`. -/
theorem test_index_unwritten :
    (decAfter (exec (.index 42) (bodyAt 0 1))).map (fun d => (d.prev, d.count)) = some (Pixel.zero, 1) := by decide

/-- D7: an INDEX byte that is not 0 at the target. -/
theorem test_index_at_target :
    (decAfter (exec (.index 5) (bodyAt 1 1))).map Dec.err = some .missingEndBytes := by decide

/-- D12: all deltas -2, wrapping below 0. -/
theorem test_diff_wraps :
    (decAfter (exec (.diff 0 0 0) (bodyAt 0 1))).map Dec.prev = some ⟨254, 254, 254, 255⟩ := by decide

/-- D13: all deltas 1. -/
theorem test_diff_up : (decAfter (exec (.diff 3 3 3) (bodyAt 0 1))).map Dec.prev = some ⟨1, 1, 1, 255⟩ := by decide

/-- D14: the second byte `FF` is the deltas 7 and 7. -/
theorem test_luma_high :
    (decAfter (exec (.luma 63 15 15) (bodyAt 0 1))).map Dec.prev = some ⟨38, 31, 38, 255⟩ := by decide

/-- D16: all lower bounds. -/
theorem test_luma_low :
    (decAfter (exec (.luma 0 0 0) (bodyAt 0 1))).map Dec.prev = some ⟨216, 224, 216, 255⟩ := by decide

/-- D8: the last byte of the end marker wrong. -/
theorem test_end_last_byte :
    (decAfter (exec (.endMarker 0 0 0 0 0 0 2) (bodyAt 1 1))).map (fun d => (d.err, d.inpos)) =
      some (.missingEndBytes, 22) := by decide

/-- D9: the fourth byte of the end marker wrong, no byte after it accepted. -/
theorem test_end_fourth_byte :
    (decAfter (exec (.endMarker 0 0 1 0 0 0 1) (bodyAt 1 1))).map (fun d => (d.err, d.inpos)) =
      some (.missingEndBytes, 18) := by decide

/-- P4: END one pixel short of the target is INDEX 0 and then END read one byte late, which fails at its seventh byte. -/
theorem test_end_one_pixel_short :
    (decAfter (exec .theEnd (bodyAt 1 2))).map (fun d => (d.err, d.count, d.op, d.opn, d.inpos)) =
      some (.missingEndBytes, 2, .endm, 5, 22) := by decide

/-- D19: after END no byte is accepted. -/
theorem test_byte_after_end :
    decAfter (event (.decByte 0xAA) (decIn .ended)) = some (decIn .ended).dec := by decide

/-- H1: the magic is checked at its fourth byte only. -/
theorem test_magic :
    (decAfter (event (.decByte 0x67) (headerAt 3))).map (fun d => (d.err, d.inpos)) = some (.invalidQOIHeader, 4) := by
  decide

/-- H4: an illegal colorspace. -/
theorem test_colorspace :
    (decAfter (event (.decByte 2) (headerAt 13))).map (fun d => (d.err, d.inpos)) =
      some (.invalidValueInHeader, 14) := by decide

/-! ### Single steps of the encoder (95_test_vectors.md section 2) -/

/-- E1: a zero-pixel image is 22 bytes, in one step. -/
theorem test_zero_pixels :
    outAfter (event .encStart (configured 0 0 0)) =
      some [0x71, 0x6F, 0x69, 0x66, 0, 0, 0, 0, 0, 0, 0, 0, 4, 0, 0, 0, 0, 0, 0, 0, 0, 1] := by decide

/-- E22: 2 by 2 with a pixel length of 3. -/
theorem test_pixel_length :
    (encAfter (event .encStart (configured 2 2 3))).map Enc.err = some .dimensionsMismatchPixelsLength := by decide

/-- E2: a run of 1 at the end of the image. -/
theorem test_encode_run : opBytes ((encodingAt 0 1 0 []).enc.pixel Pixel.initPrev).2 = [0xC0, 0, 0, 0, 0, 0, 0, 0, 1] := by
  decide

/-- E5: `ZERO` hits slot 0 at once. -/
theorem test_encode_index : opBytes ((encodingAt 0 2 0 []).enc.pixel ⟨0, 0, 0, 0⟩).2 = [0x00] := by decide

/-- E7, E8: DIFF with wrapping deltas. -/
theorem test_encode_diff :
    opBytes ((encodingAt 0 2 0 []).enc.pixel ⟨1, 0, 255, 255⟩).2 = [0x79] ∧
    opBytes ((encodingAt 0 2 0 []).enc.pixel ⟨255, 254, 1, 255⟩).2 = [0x53] := by decide

/-- E9 and 1.3: LUMA at its bounds. -/
theorem test_encode_luma :
    opBytes ((encodingAt 0 2 0 []).enc.pixel ⟨216, 224, 216, 255⟩).2 = [0x80, 0x00] ∧
    opBytes ((encodingAt 0 2 0 []).enc.pixel ⟨38, 31, 23, 255⟩).2 = [0xBF, 0xF0] := by decide

/-- 1.3: one unit outside LUMA's range. -/
theorem test_encode_rgb : opBytes ((encodingAt 0 2 0 []).enc.pixel ⟨39, 31, 23, 255⟩).2 = [0xFE, 0x27, 0x1F, 0x17] := by
  decide

/-- E13: alpha alone changed. -/
theorem test_encode_rgba :
    opBytes ((encodingAt 0 2 0 []).enc.pixel ⟨0, 0, 0, 254⟩).2 = [0xFF, 0, 0, 0, 0xFE] := by decide

/-- E18: three repeats pending, flushed before the next op. -/
theorem test_encode_flush :
    opBytes ((encodingAt 3 9 3 []).enc.pixel pixelA).2 = [0xC2, 0xFE, 0x0A, 0x14, 0x1E] := by decide

/-! ### States that meet the hypotheses of the statements, one theorem each, every clause at a boundary -/

theorem meets_DecodeUndoesEncode :
    ((Instr.index 0).wf = true ∧ (Instr.index 0).isEnd = false) ∧ (Instr.run 61).wf = true ∧
    ((Instr.endMarker 0 0 0 0 0 0 0).isEnd = true ∧ Instr.endMarker 0 0 0 0 0 0 0 ≠ .index 0) := by decide

theorem meets_EncodeUndoesDecode :
    decode true [0#8, 0#8, 0#8, 0#8, 0#8, 0#8, 0#8, 1#8] = .ok (.theEnd, []) ∧
    decode false [0#8] = .ok (.index 0, []) := by decide

theorem meets_FirstByteNamesOpAndLength :
    decode false [0x80#8, 0x88#8] = .ok (.luma 0 8 8, []) ∧
    decode true [0#8, 9#8, 9#8, 9#8, 9#8, 9#8, 9#8, 9#8, 7#8] = .ok (.endMarker 9 9 9 9 9 9 9, [7#8]) := by decide

theorem meets_CacheReadsLastWriteAndIsItsSlots :
    Memory.wf [] = true ∧ Memory.wf [(0, pixelA), (63, pixelA)] = true := by decide

theorem meets_RgbDeliversRawPixel :
    ((bodyAtEdge 0 1 4).OpReady 4 ∧ (bodyAtEdge 0 1 4).dec.count ≠ (bodyAtEdge 0 1 4).dec.target) ∧
    ((bodyAtEdge 1 1 1).OpReady 1 ∧ (bodyAtEdge 1 1 1).dec.count = (bodyAtEdge 1 1 1).dec.target) ∧
    ((bodyAtEdge 0 1 1).OpReady 1 ∧ (bodyAtEdge 0 1 1).dec.count ≠ (bodyAtEdge 0 1 1).dec.target) ∧
    ((pendingAt 0 1 .rgb 2).dec.st = .body ∧ (pendingAt 0 1 .rgb 2).dec.op = .rgb) :=
  ⟨⟨⟨by decide, by decide⟩, by decide⟩, ⟨⟨by decide, by decide⟩, by decide⟩, ⟨⟨by decide, by decide⟩, by decide⟩,
    by decide⟩

theorem meets_RgbaDeliversRawPixel :
    ((bodyAtEdge 0 1 5).OpReady 5 ∧ (bodyAtEdge 0 1 5).dec.count ≠ (bodyAtEdge 0 1 5).dec.target) ∧
    ((bodyAtEdge 0 0 1).OpReady 1 ∧ (bodyAtEdge 0 0 1).dec.count = (bodyAtEdge 0 0 1).dec.target) ∧
    ((bodyAtEdge 0 1 1).OpReady 1 ∧ (bodyAtEdge 0 1 1).dec.count ≠ (bodyAtEdge 0 1 1).dec.target) ∧
    ((pendingAt 0 1 .rgba 3).dec.st = .body ∧ (pendingAt 0 1 .rgba 3).dec.op = .rgba) :=
  ⟨⟨⟨by decide, by decide⟩, by decide⟩, ⟨⟨by decide, by decide⟩, by decide⟩, ⟨⟨by decide, by decide⟩, by decide⟩,
    by decide⟩

theorem meets_RunRepeatsPreviousPixel :
    ((61 : BitVec 6).toNat ≤ 61 ∧ (bodyAtEdge 1 63 1).OpReady 1 ∧
      (bodyAtEdge 1 63 1).dec.count.toNat + ((61 : BitVec 6).toNat + 1) ≤ (bodyAtEdge 1 63 1).dec.target.toNat) ∧
    ((0 : BitVec 6).toNat ≤ 61 ∧ (bodyAtEdge 1 1 1).OpReady 1 ∧
      (bodyAtEdge 1 1 1).dec.target.toNat < (bodyAtEdge 1 1 1).dec.count.toNat + ((0 : BitVec 6).toNat + 1)) :=
  ⟨⟨by decide, ⟨by decide, by decide⟩, by decide⟩, by decide, ⟨by decide, by decide⟩, by decide⟩

theorem meets_ReservedRunPayloadsAreNoOps : 62 ≤ (62 : BitVec 6).toNat ∧ 62 ≤ (63 : BitVec 6).toNat := by decide

theorem meets_IndexDeliversSlot :
    ((bodyAtEdge 0 1 1).OpReady 1 ∧ (bodyAtEdge 0 1 1).dec.count ≠ (bodyAtEdge 0 1 1).dec.target) ∧
    (∃ t, event .decStart (decIn .ended) = .next t) :=
  ⟨⟨⟨by decide, by decide⟩, by decide⟩, _, rfl⟩

theorem meets_OnlyEndStartsAtTarget :
    (bodyAtEdge 7 7 1).OpReady 1 ∧ (bodyAtEdge 7 7 1).dec.count = (bodyAtEdge 7 7 1).dec.target :=
  ⟨⟨by decide, by decide⟩, by decide⟩

theorem meets_DiffAddsDeltas :
    ((bodyAtEdge 6 7 1).OpReady 1 ∧ (bodyAtEdge 6 7 1).dec.count ≠ (bodyAtEdge 6 7 1).dec.target) ∧
    ((bodyAtEdge 7 7 1).OpReady 1 ∧ (bodyAtEdge 7 7 1).dec.count = (bodyAtEdge 7 7 1).dec.target) :=
  ⟨⟨⟨by decide, by decide⟩, by decide⟩, ⟨by decide, by decide⟩, by decide⟩

theorem meets_LumaAddsRelativeDeltas :
    ((bodyAtEdge 6 7 2).OpReady 2 ∧ (bodyAtEdge 6 7 2).dec.count ≠ (bodyAtEdge 6 7 2).dec.target) ∧
    ((bodyAtEdge 7 7 1).OpReady 1 ∧ (bodyAtEdge 7 7 1).dec.count = (bodyAtEdge 7 7 1).dec.target) ∧
    ((bodyAtEdge 6 7 1).OpReady 1 ∧ (bodyAtEdge 6 7 1).dec.count ≠ (bodyAtEdge 6 7 1).dec.target ∧
      0x80 ≤ (0xBF : Byte).toNat ∧ (0xBF : Byte).toNat ≤ 0xBF) ∧
    ((pendingAt 0 1 .luma 0).dec.st = .body ∧ (pendingAt 0 1 .luma 0).dec.op = .luma) :=
  ⟨⟨⟨by decide, by decide⟩, by decide⟩, ⟨⟨by decide, by decide⟩, by decide⟩, ⟨⟨by decide, by decide⟩, by decide⟩,
    by decide⟩

/-- The first and the last of the seven bytes wrong. -/
theorem meets_EndMarkerEndsOrFailsAtFirstWrongByte :
    ((bodyAtEdge 7 7 8).OpReady 8 ∧ (bodyAtEdge 7 7 8).dec.count = (bodyAtEdge 7 7 8).dec.target) ∧
    ([1#8, 0#8, 0#8, 0#8, 0#8, 0#8, 1#8][0]? ≠ [0#8, 0#8, 0#8, 0#8, 0#8, 0#8, 1#8][0]?) ∧
    ((∀ j, j < 6 → [0#8, 0#8, 0#8, 0#8, 0#8, 0#8, 0#8][j]? = [0#8, 0#8, 0#8, 0#8, 0#8, 0#8, 1#8][j]?) ∧
      [0#8, 0#8, 0#8, 0#8, 0#8, 0#8, 0#8][6]? ≠ [0#8, 0#8, 0#8, 0#8, 0#8, 0#8, 1#8][6]?) :=
  ⟨⟨⟨by decide, by decide⟩, by decide⟩, by decide, by decide, by decide⟩

theorem meets_EndByteChecked :
    ((pendingAt 1 1 .endm 0).dec.st = .body ∧ (pendingAt 1 1 .endm 0).dec.op = .endm ∧
      (pendingAt 1 1 .endm 0).dec.opn ≤ 6 ∧ (pendingAt 1 1 .endm 0).dec.inpos.toNat + 1 < posMax) ∧
    (pendingAt 1 1 .endm 5).dec.opn ≤ 6 ∧ (pendingAt 1 1 .endm 6).dec.opn ≤ 6 := by decide

theorem meets_OperandByteIsNeverATag :
    ((pendingAt 0 1 .rgb 1).dec.st = .body ∧ (pendingAt 0 1 .rgb 1).dec.op = .rgb ∧
      (pendingAt 0 1 .rgb 1).dec.opn + 1 < need (pendingAt 0 1 .rgb 1).dec.op ∧
      (pendingAt 0 1 .rgb 1).dec.inpos.toNat + 1 < posMax) ∧
    (pendingAt 0 1 .rgba 2).dec.opn + 1 < need (pendingAt 0 1 .rgba 2).dec.op ∧
    ((pendingAt 0 1 .rgb 2).dec.op = .rgb ∧ (pendingAt 0 1 .rgb 2).dec.opn = 2) ∧
    ((pendingAt 0 1 .rgba 3).dec.op = .rgba ∧ (pendingAt 0 1 .rgba 3).dec.opn = 3) ∧
    ((pendingAt 0 1 .luma 0).dec.op = .luma ∧ (pendingAt 0 1 .luma 0).dec.opn = 0) := by decide

theorem meets_OpsLeaveTheRestAlone :
    (bodyAt 0 1).dec.atOpStart = true ∧ ∃ t, exec (.rgb 1 2 3) (bodyAt 0 1) = .next t := ⟨by decide, _, rfl⟩

/-- An op that stores, with another slot and with the slot's own pixel; and END at the target. -/
theorem meets_OpsChangeOnlyTheirSlot :
    (bodyAt 0 1).dec.atOpStart = true ∧ (∃ t, exec (.rgb 1 2 3) (bodyAt 0 1) = .next t) ∧
    storedPixel (bodyAt 0 1).dec (.rgb 1 2 3) = some ⟨1, 2, 3, 255⟩ ∧ (0 : BitVec 6) ≠ pixelHash ⟨1, 2, 3, 255⟩ ∧
    (bodyAt 1 1).dec.atTarget = true ∧ (∃ t, exec .theEnd (bodyAt 1 1) = .next t) :=
  ⟨by decide, ⟨_, rfl⟩, by decide, by decide, by decide, _, rfl⟩

theorem meets_OneByteOpsFrame :
    (bodyAt 0 1).dec.atOpStart = true ∧ (∃ t, exec (.run 0) (bodyAt 0 1) = .next t) ∧
    (∃ t, exec (.index 9) (bodyAt 0 1) = .next t ∧ t.dec.op ≠ .endm) ∧
    ∃ t, exec (.diff 3 3 3) (bodyAt 0 1) = .next t :=
  ⟨by decide, ⟨_, rfl⟩, ⟨_, rfl, by decide⟩, _, rfl⟩

theorem meets_OpIsItsBytesInOrder : (Instr.run 61).wf = true ∧ (Instr.endMarker 0 0 5 0 0 0 0).isEnd = true := by decide

theorem meets_OpsNotAcceptedOutsideDecode :
    (decIn .idle).dec.st = .idle ∧ (decIn .ended).dec.st = .ended ∧ (decIn .error).dec.st = .error := by decide

theorem meets_MissOpMakesItsPixel : (bodyAt 0 1).dec.prev = Pixel.initPrev := by decide

/-- RGB lined up below the target, and END at it. -/
theorem meets_StepRunsTheDecodedOp :
    ((bodyAt 0 1).dec.atOpStart = true ∧
      decode (bodyAt 0 1).dec.atTarget (leadingBytes [.decByte 0xFE, .decByte 1, .decByte 2, .decByte 3, .decEos]) =
        .ok (.rgb 1 2 3, [])) ∧
    ((bodyAt 1 1).dec.atOpStart = true ∧
      decode (bodyAt 1 1).dec.atTarget
        (leadingBytes [.decByte 0, .decByte 0, .decByte 0, .decByte 0, .decByte 0, .decByte 0, .decByte 0, .decByte 1]) =
        .ok (.theEnd, [])) := by decide

/-- An op cut short by the end of the input, and no event. -/
theorem meets_StepTakesOneEvent :
    fetch { bodyAt 0 1 with pending := [.decByte 0xFE, .decByte 1, .decEos] } = none ∧ State.reset.pending = [] := by
  decide

theorem meets_StepIsEventsInOrder :
    (∃ t, step { bodyAt 0 1 with pending := [.decByte 0xFE, .decByte 1, .decByte 2, .decByte 3] } = .next t) ∧
    ∃ t, step { State.reset with pending := [.reset] } = .next t := ⟨⟨_, rfl⟩, _, rfl⟩

theorem meets_DecStartSetsFreshDecode :
    ((decIn .error).dec.st ≠ .header ∧ (decIn .error).dec.st ≠ .body) ∧ (headerAt 0).dec.st = .header ∧
    (bodyAt 0 1).dec.st = .body := by decide

/-- Offsets 0, 11, 3 and 12, with a right and a wrong byte. -/
theorem meets_HeaderBytesCheckedAtTheirOffsets :
    ((headerAt 0).dec.st = .header ∧ (headerAt 0).dec.hpos ≤ 11 ∧ (headerAt 0).dec.hpos ≠ 3 ∧
      (headerAt 0).dec.inpos.toNat + 1 < posMax) ∧
    ((headerAt 11).dec.hpos ≤ 11 ∧ (headerAt 11).dec.hpos ≠ 3) ∧
    ((headerAt 3).dec.hpos = 3 ∧ (headerAt 3).dec.hbuf[0] = 0x71 ∧ (headerAt 3).dec.hbuf[1] = 0x6F ∧
      (headerAt 3).dec.hbuf[2] = 0x69 ∧ (0x67 : Byte) ≠ 0x66) ∧
    ((headerAt 12).dec.hpos = 12 ∧ (4 : Byte).toNat = 4 ∧ ¬((5 : Byte).toNat = 3 ∨ (5 : Byte).toNat = 4)) := by decide

theorem meets_HeaderCompletesAtOffsetThirteen :
    (headerAt 13).dec.st = .header ∧ (headerAt 13).dec.hpos = 13 ∧ (headerAt 13).dec.inpos.toNat + 1 < posMax ∧
    (1 : Byte).toNat ≤ 1 ∧ 1 < (2 : Byte).toNat := by decide

/-- The clause for target 0: a header whose width bytes are 0. -/
theorem meets_HeaderCompletesAtOffsetThirteen_targetZero :
    emptyHeader.dec.st = .header ∧ emptyHeader.dec.hpos = 13 ∧ emptyHeader.dec.count = 0 ∧
    (decAfter (event (.decByte 1) emptyHeader)).map (fun d => (d.target, d.st, decide (d.inpos.toNat + 1 < posMax))) =
      some (0, .body, true) := by decide

theorem meets_HeaderRoundTrips :
    (decIn .idle).dec.st ≠ .header ∧ (decIn .idle).dec.st ≠ .body ∧ (3 : Byte).toNat = 3 ∧ (1 : Byte).toNat ≤ 1 := by
  decide

theorem meets_EndOfInputRaises :
    ((headerAt 3).dec.st = .header ∧ (headerAt 3).dec.hpos < 4) ∧
    ((headerAt 4).dec.st = .header ∧ 4 ≤ (headerAt 4).dec.hpos) ∧ (bodyAt 0 0).dec.st = .body := by decide

theorem meets_IoFailureRaises :
    (headerAt 0).dec.st = .header ∧ (bodyAt 0 0).dec.st = .body ∧ (decIn .idle).dec.st = .idle ∧
    (decIn .ended).dec.st = .ended ∧ (decIn .error).dec.st = .error ∧ (encodingAt 0 1 0 []).enc.st = .body ∧
    ({ Enc.reset with st := .done } : Enc).st = .done ∧ State.reset.enc.st = .idle ∧
    ({ Enc.reset with st := .error } : Enc).st = .error := by decide

theorem meets_DecoderIgnoresInputOutsideDecode :
    (decIn .idle).dec.st = .idle ∧ (decIn .ended).dec.st = .ended ∧ (decIn .error).dec.st = .error := by decide

/-- In BODY; with 5 channels; with colorspace 2; a pixel in IDLE. -/
theorem meets_EncoderHostObligationsRefused :
    (encodingAt 0 1 0 []).enc.st = .body ∧ (configured 1 1 1).enc.st ≠ .body ∧
    ¬(((5 : Byte).toNat = 3 ∨ (5 : Byte).toNat = 4) ∧ (0 : Byte).toNat ≤ 1) ∧
    ¬(((4 : Byte).toNat = 3 ∨ (4 : Byte).toNat = 4) ∧ (2 : Byte).toNat ≤ 1) := by decide

theorem meets_EncStartChecksPixelLength :
    (configured 2 2 3).enc.st ≠ .body ∧ (configured 2 2 3).enc.cfgChannels.toNat = 4 ∧
    (configured 2 2 3).enc.cfgColorspace.toNat ≤ 1 ∧
    (configured 2 2 3).enc.cfgPixlen.toNat ≠
      (configured 2 2 3).enc.cfgWidth.toNat * (configured 2 2 3).enc.cfgHeight.toNat := by decide

/-- One pixel, and no pixels. -/
theorem meets_EncStartEmitsHeader :
    ((configured 1 1 1).enc.st ≠ .body ∧ (configured 1 1 1).enc.cfgChannels.toNat = 4 ∧
      (configured 1 1 1).enc.cfgColorspace.toNat ≤ 1 ∧
      (configured 1 1 1).enc.cfgPixlen.toNat =
        (configured 1 1 1).enc.cfgWidth.toNat * (configured 1 1 1).enc.cfgHeight.toNat) ∧
    ((configured 0 5 0).enc.st ≠ .body ∧ (configured 0 5 0).enc.cfgChannels.toNat = 4 ∧
      (configured 0 5 0).enc.cfgPixlen.toNat =
        (configured 0 5 0).enc.cfgWidth.toNat * (configured 0 5 0).enc.cfgHeight.toNat) := by decide

/-- The first repeat, and the 62nd. -/
theorem meets_RepeatIsCounted :
    unlane Config.pixelOrderEnc (encWord Pixel.initPrev) = (encodingAt 0 2 0 []).enc.prev ∧
    ((encodingAt 0 2 0 []).enc.run.toNat ≤ 61 ∧ (encodingAt 0 2 0 []).enc.count + 1 ≠ (encodingAt 0 2 0 []).enc.target ∧
      (encodingAt 0 2 0 []).enc.outpos.toNat + 1 < posMax) ∧
    (encodingAt 61 63 61 []).enc.run.toNat = 61 ∧
    (encodingAt 61 63 61 []).enc.count + 1 ≠ (encodingAt 61 63 61 []).enc.target :=
  ⟨unlane_lane _ _, by decide, by decide, by decide⟩

theorem meets_CacheHitEmitsIndex :
    pixelA = unlane Config.pixelOrderEnc (encWord pixelA) ∧ (encodingAt 1 3 1 [(9, pixelA)]).enc.st = .body ∧
    pixelA ≠ (encodingAt 1 3 1 [(9, pixelA)]).enc.prev ∧
    (encodingAt 1 3 1 [(9, pixelA)]).enc.cache.read (pixelHash pixelA) = pixelA ∧
    (encodingAt 1 3 1 [(9, pixelA)]).enc.count + 1 ≠ (encodingAt 1 3 1 [(9, pixelA)]).enc.target ∧
    (encodingAt 1 3 1 [(9, pixelA)]).enc.outpos.toNat + 2 < posMax :=
  ⟨(unlane_lane _ _).symm, by decide, by decide, by decide, by decide, by decide⟩

/-- The slot holds a pixel that collides with A (95_test_vectors.md section 2: C). -/
theorem meets_CacheMissStoresAndEmits :
    pixelA = unlane Config.pixelOrderEnc (encWord pixelA) ∧
    (encodingAt 1 3 1 [(9, ⟨74, 20, 30, 255⟩)]).enc.st = .body ∧
    pixelA ≠ (encodingAt 1 3 1 [(9, ⟨74, 20, 30, 255⟩)]).enc.prev ∧
    (encodingAt 1 3 1 [(9, ⟨74, 20, 30, 255⟩)]).enc.cache.wf = true ∧
    (encodingAt 1 3 1 [(9, ⟨74, 20, 30, 255⟩)]).enc.cache.read (pixelHash pixelA) ≠ pixelA ∧
    (encodingAt 1 3 1 [(9, ⟨74, 20, 30, 255⟩)]).enc.count + 1 ≠
      (encodingAt 1 3 1 [(9, ⟨74, 20, 30, 255⟩)]).enc.target ∧
    (encodingAt 1 3 1 [(9, ⟨74, 20, 30, 255⟩)]).enc.outpos.toNat + 6 < posMax :=
  ⟨(unlane_lane _ _).symm, by decide, by decide, by decide, by decide, by decide, by decide⟩

/-- A pixel in each of the ranges: DIFF's lower bounds, LUMA's bounds, one unit outside, alpha changed. -/
theorem meets_MissOpChoice :
    (sdiff8 254 0 = -2 ∧ sdiff8 1 0 = 1) ∧
    (sdiff8 31 0 = 31 ∧ sext8 (wrap8 (sdiff8 38 0 - sdiff8 31 0)) = 7 ∧
      sext8 (wrap8 (sdiff8 23 0 - sdiff8 31 0)) = -8) ∧
    (sext8 (wrap8 (sdiff8 39 0 - sdiff8 31 0)) = 8) ∧ (254 : Byte) ≠ 255 := by decide

theorem meets_LastPixelFinalizes :
    (encodingAt 0 1 0 []).enc.st = .body ∧ (encodingAt 0 1 0 []).enc.count + 1 = (encodingAt 0 1 0 []).enc.target ∧
    (encodingAt 0 1 0 []).enc.outpos.toNat + 14 < posMax := by decide

theorem meets_PixelStepEmitsAtMostFourteenBytes :
    ∃ t, event (.encPixel (encWord Pixel.initPrev)) (encodingAt 0 2 0 []) = .next t ∧ t.enc.st = .body := by
  refine ⟨{ encodingAt 0 2 0 [] with enc := { (encodingAt 0 2 0 []).enc with run := 1, count := 1 } }, ?_, rfl⟩
  simp only [event, encPixel, encWord, unlane_lane]
  rfl

/-- An encoder two pixels in, both repeats pending, is as the invariant says. -/
theorem encodingAt_inv : (encodingAt 2 3 2 []).enc.Inv :=
  ⟨by decide, by decide, by decide, by decide, by decide, by decide⟩

theorem meets_EngineAgreementKept :
    (encodingAt 2 3 2 []).enc.st = .body ∧ (encodingAt 2 3 2 []).enc.Inv ∧
    Agree (encodingAt 2 3 2 []).enc (bodyAt 0 3).dec ∧ (bodyAt 0 3).dec.atOpStart = true ∧
    (bodyAt 0 3).dec.inpos.toNat + 6 < posMax :=
  ⟨by decide, encodingAt_inv, ⟨by decide, by decide, by decide, by decide⟩, by decide, by decide⟩

/-- One pixel, and none. -/
theorem meets_DecodeUndoesEncodeOfImages :
    ((configured 1 1 1).enc.st ≠ .body ∧ (configured 1 1 1).dec.st ≠ .header ∧ (configured 1 1 1).dec.st ≠ .body ∧
      (configured 1 1 1).enc.cfgChannels.toNat = 4 ∧ (configured 1 1 1).enc.cfgColorspace.toNat ≤ 1 ∧
      [pixelA].length = (configured 1 1 1).enc.cfgWidth.toNat * (configured 1 1 1).enc.cfgHeight.toNat ∧
      (configured 1 1 1).enc.cfgPixlen.toNat = [pixelA].length ∧ 22 + 6 * [pixelA].length < posMax) ∧
    (([] : List Pixel).length = (configured 0 5 0).enc.cfgWidth.toNat * (configured 0 5 0).enc.cfgHeight.toNat ∧
      (configured 0 5 0).enc.cfgPixlen.toNat = ([] : List Pixel).length) := by decide

theorem meets_ControlAndReadOnlyRegisters : (1 : BitVec 64).toNat % 2 = 1 ∧ EncReg.outpos = .outpos ∧
    DecReg.status ≠ .ctrl := by decide

/-- A state in the middle of both an encode and a decode, with an event to take. -/
def busy : State :=
  { encodingAt 2 3 2 [] with
    dec := (bodyAt 1 3).dec
    pout := [⟨0, 0, 0, 0⟩]
    pending := [.decByte 0xC0, .encPixel (encWord Pixel.initPrev)] }

theorem meets_StepKeepsInvariant : busy.Inv ∧ ∃ t, step busy = .next t :=
  ⟨⟨encodingAt_inv, ⟨by decide, by decide, by decide, by decide, by decide, by decide, by decide, by decide⟩, by decide,
    by decide⟩, _, rfl⟩

theorem meets_EnginesAreIsolated :
    (∃ t, event .encStart (configured 0 5 0) = .next t) ∧ Event.encStart.forEnc = true ∧
    (∃ t, event (.decByte 0xC0) busy = .next t) ∧ (Event.decByte 0xC0).forDec = true :=
  ⟨⟨_, rfl⟩, rfl, ⟨_, rfl⟩, rfl⟩

theorem meets_EnginesDoNotRead :
    (Event.encStart.forEnc = true ∧ (configured 0 5 0).enc = { configured 0 5 0 with dec := busy.dec }.enc ∧
      ∃ t, event .encStart (configured 0 5 0) = .next t) ∧
    ((Event.decByte 0xC0).forDec = true ∧ busy.dec = { busy with enc := Enc.reset }.dec ∧
      ∃ t, event (.decByte 0xC0) busy = .next t) :=
  ⟨⟨rfl, rfl, _, rfl⟩, rfl, rfl, _, rfl⟩

/-- A configuration write to a failed encode, and a byte to a failed decode. -/
theorem meets_ErrorIsLeftOnlyByStartOrReset :
    (∃ t, event (.encWrite .width 7) { State.reset with enc := { Enc.reset with st := .error, err := .ioError } } =
      .next t) ∧ (Event.encWrite .width 7).startsEnc = false ∧ Event.encWrite .width 7 ≠ .reset ∧
    (∃ t, event (.decByte 7) (decIn .error) = .next t) ∧ (Event.decByte 7).startsDec = false ∧
    Event.decByte 7 ≠ .reset ∧ (decIn .error).dec.st = .error :=
  ⟨⟨_, rfl⟩, rfl, by decide, ⟨_, rfl⟩, rfl, by decide, rfl⟩

theorem meets_OutputsAreFinal : ∃ t, step busy = .next t := ⟨_, rfl⟩

theorem meets_FailingByteOutputsNothing :
    (bodyAt 1 1).dec.st ≠ .error ∧ ∃ t, event (.decByte 0xC0) (bodyAt 1 1) = .next t ∧ t.dec.st = .error :=
  ⟨by decide, _, rfl, by decide⟩

theorem meets_PositionPastMaximumRefused :
    ((bodyAtEdge 0 1 0).dec.st = .body ∧ (bodyAtEdge 0 1 0).dec.inpos.toNat + 1 = posMax) ∧
    ({ headerAt 0 with dec := { (headerAt 0).dec with inpos := 0xFFFFFFFFFFFFFFFF } }.dec.st = .header ∧
      { headerAt 0 with dec := { (headerAt 0).dec with inpos := 0xFFFFFFFFFFFFFFFF } }.dec.inpos.toNat + 1 = posMax) := by
  decide

end Sys2Proof.Machine
end

section
/-! PROOFS. What the decoder reads as an op is the op's own bytes (30_encoding.md R92 to R102). -/

namespace Sys2Proof

/-! A first byte is the one its op is encoded with: the fields read from it, put together again. -/

theorem eq_of_opOf_rgb (t : Bool) : ∀ b : Byte, opOf t b = .rgb → b = 0xFE#8 := by cases t <;> decide

theorem eq_of_opOf_rgba (t : Bool) : ∀ b : Byte, opOf t b = .rgba → b = 0xFF#8 := by cases t <;> decide

theorem eq_of_opOf_run (t : Bool) :
    ∀ b : Byte, opOf t b = .run → 0b11#2 ++ payloadOf b = b ∧ (payloadOf b).toNat ≤ 61 := by
  cases t <;> decide

theorem eq_of_opOf_index (t : Bool) : ∀ b : Byte, opOf t b = .index → 0b00#2 ++ payloadOf b = b := by
  cases t <;> decide

theorem eq_of_opOf_diff (t : Bool) :
    ∀ b : Byte, opOf t b = .diff → 0b01#2 ++ diffR b ++ diffG b ++ diffB b = b := by
  cases t <;> decide

theorem eq_of_opOf_luma (t : Bool) : ∀ b : Byte, opOf t b = .luma → 0b10#2 ++ payloadOf b = b := by
  cases t <;> decide

theorem eq_of_opOf_endMarker (t : Bool) : ∀ b : Byte, opOf t b = .endMarker → b = 0#8 := by cases t <;> decide

theorem highNibble_append_lowNibble : ∀ b : Byte, highNibble b ++ lowNibble b = b := by decide

/-- What `decode` reads is the op's bytes with the rest behind them, and the op exists or is an END row. -/
theorem decode_ok {t : Bool} {bs rest : List Byte} {i : Instr} (h : decode t bs = .ok (i, rest)) :
    bs = encode i ++ rest ∧ (i.wf = true ∨ i.isEnd = true) := by
  cases bs with
  | nil => cases h
  | cons b bs =>
    simp only [decode] at h
    split at h <;> cases h
    case h_1 ho => simp [encode, Instr.wf, eq_of_opOf_rgb t b ho]
    case h_3 ho => simp [encode, Instr.wf, eq_of_opOf_rgba t b ho]
    case h_5 ho => simp [encode, Instr.wf, eq_of_opOf_run t b ho]
    case h_6 ho => simp [encode, Instr.wf, eq_of_opOf_index t b ho]
    case h_7 ho => simp [encode, Instr.wf, eq_of_opOf_diff t b ho]
    case h_8 ho => simp [encode, Instr.wf, eq_of_opOf_luma t b ho, highNibble_append_lowNibble]
    case h_10 ho => simp [encode, Instr.isEnd, eq_of_opOf_endMarker t b ho]

theorem encode_length_pos (i : Instr) : 1 ≤ (encode i).length := by
  cases i <;> simp [encode]

theorem encode_length_le (i : Instr) : (encode i).length ≤ 8 := by
  cases i <;> simp [encode]

end Sys2Proof
end

section
/-! PROOFS. An op whole is its bytes one at a time (42_decoder.md R172 to R183). -/

namespace Sys2Proof.Machine

/-- At the target the first byte of RGB, RGBA or LUMA raises, and the bytes behind it are not accepted (R181). -/
theorem Dec.bytes_tag_atTarget {d : Dec} {o : PendingOp} {b : Byte} (bs : List Byte) (hs : d.atOpStart = true)
    (hc : d.count = d.target) (hb : (d.accept 1).firstByte b = (d.accept 1).tagByte o b) :
    Dec.bytes (b :: bs) d = ((d.accept 1).raise .readingMorePixels, []) := by
  have hbyte : d.byte b = ((d.accept 1).raise .readingMorePixels, []) := by
    rw [Dec.byte_of_start hs, hb]
    exact Dec.orOverflow_at (d := d.accept 1) hc _
  rw [Dec.bytes_cons, hbyte, Dec.bytes_of_not_accepts bs (by simp [Dec.accepts]), List.append_nil]

/-- Below the target the first byte of RGB, RGBA or LUMA only starts its op (R173, R175, R182). -/
theorem Dec.bytes_tag_below {d : Dec} {o : PendingOp} {b : Byte} (bs : List Byte) (hs : d.atOpStart = true)
    (hc : d.count ≠ d.target) (hb : (d.accept 1).firstByte b = (d.accept 1).tagByte o b) :
    Dec.bytes (b :: bs) d = Dec.bytes bs ((d.accept 1).begin o b) := by
  have hbyte : d.byte b = ((d.accept 1).begin o b, []) := by
    rw [Dec.byte_of_start hs, hb]
    exact Dec.orOverflow_below (d := d.accept 1) hc _
  rw [Dec.bytes_cons, hbyte, List.nil_append]

/-- DEC is inside RGB, RGBA or LUMA: the next byte is an operand (R174). -/
def Dec.InOperands (d : Dec) : Prop := d.st = .body ∧ d.op ≠ .none ∧ d.op ≠ .endm

/-- An operand byte that is not its op's last is only stored (R174). -/
theorem Dec.bytes_operand_more {d : Dec} {b : Byte} (bs : List Byte) (h : d.InOperands) (hn : d.opn + 1 ≠ need d.op) :
    Dec.bytes (b :: bs) d = Dec.bytes bs ((d.accept 1).storeOperand b) := by
  obtain ⟨hst, hop, hend⟩ := h
  rw [Dec.bytes_cons, Dec.byte_of_pending hst hop, Dec.operand_more (d := d.accept 1) hend hn, List.nil_append]

/-- The last operand byte completes its op (R174). -/
theorem Dec.bytes_operand_last {d : Dec} {b : Byte} (h : d.InOperands) (hn : d.opn + 1 = need d.op) :
    Dec.bytes [b] d = ((d.accept 1).storeOperand b).completeOp := by
  obtain ⟨hst, hop, hend⟩ := h
  rw [Dec.bytes_cons, Dec.byte_of_pending hst hop, Dec.operand_last (d := d.accept 1) hend hn]
  simp [Dec.bytes]

theorem Dec.bytes_rgb {d : Dec} (hs : d.atOpStart = true) (r g b : Byte) :
    Dec.bytes (encode (.rgb r g b)) d = d.rgbOp r g b := by
  have hb : (d.accept 1).firstByte 0xFE#8 = (d.accept 1).tagByte .rgb 0xFE#8 := by simp [Dec.firstByte]
  obtain ⟨hst, hop⟩ := Dec.atOpStart_iff.1 hs
  by_cases hc : d.count = d.target
  · rw [encode, Dec.bytes_tag_atTarget _ hs hc hb, Dec.rgbOp, if_pos hc]
  · rw [encode, Dec.bytes_tag_below _ hs hc hb,
      Dec.bytes_operand_more _ (by simp [Dec.InOperands, hst]) (by simp [need]),
      Dec.bytes_operand_more _ (by simp [Dec.InOperands, hst]) (by simp [need]),
      Dec.bytes_operand_last (by simp [Dec.InOperands, hst]) (by simp [need]), Dec.rgbOp, if_neg hc]
    simp [Dec.completeOp, Dec.opPixel, Dec.deliver, Dec.storeOperand, Dec.begin, Dec.accept, opbuf_set_three,
      BitVec.add_assoc, hop]

theorem Dec.bytes_rgba {d : Dec} (hs : d.atOpStart = true) (r g b a : Byte) :
    Dec.bytes (encode (.rgba r g b a)) d = d.rgbaOp r g b a := by
  have hb : (d.accept 1).firstByte 0xFF#8 = (d.accept 1).tagByte .rgba 0xFF#8 := by simp [Dec.firstByte]
  obtain ⟨hst, hop⟩ := Dec.atOpStart_iff.1 hs
  by_cases hc : d.count = d.target
  · rw [encode, Dec.bytes_tag_atTarget _ hs hc hb, Dec.rgbaOp, if_pos hc]
  · rw [encode, Dec.bytes_tag_below _ hs hc hb,
      Dec.bytes_operand_more _ (by simp [Dec.InOperands, hst]) (by simp [need]),
      Dec.bytes_operand_more _ (by simp [Dec.InOperands, hst]) (by simp [need]),
      Dec.bytes_operand_more _ (by simp [Dec.InOperands, hst]) (by simp [need]),
      Dec.bytes_operand_last (by simp [Dec.InOperands, hst]) (by simp [need]), Dec.rgbaOp, if_neg hc]
    simp [Dec.completeOp, Dec.opPixel, Dec.deliver, Dec.storeOperand, Dec.begin, Dec.accept, opbuf_set_four,
      BitVec.add_assoc, hop]

theorem Dec.bytes_luma {d : Dec} (hs : d.atOpStart = true) (gg : BitVec 6) (xx yy : BitVec 4) :
    Dec.bytes (encode (.luma gg xx yy)) d = d.lumaOp gg xx yy := by
  have hb : (d.accept 1).firstByte (0b10#2 ++ gg) = (d.accept 1).tagByte .luma (0b10#2 ++ gg) := by
    simp only [Dec.firstByte, opOf_luma]
  obtain ⟨hst, hop⟩ := Dec.atOpStart_iff.1 hs
  by_cases hc : d.count = d.target
  · rw [encode, Dec.bytes_tag_atTarget _ hs hc hb, Dec.lumaOp, if_pos hc]
  · rw [encode, Dec.bytes_tag_below _ hs hc hb,
      Dec.bytes_operand_last (by simp [Dec.InOperands, hst]) (by simp [need]), Dec.lumaOp, if_neg hc]
    simp [Dec.completeOp, Dec.opPixel, Dec.deliver, Dec.storeOperand, Dec.begin, Dec.accept, opbuf_set_one,
      payloadOf_append, highNibble_append, lowNibble_append, BitVec.add_assoc, hop]

theorem Dec.bytes_run {d : Dec} (hs : d.atOpStart = true) {n : BitVec 6} (hn : n.toNat ≤ 61) :
    Dec.bytes (encode (.run n)) d = (d.accept 1).runOp n := by
  rw [encode, Dec.bytes_one hs]
  simp only [Dec.firstByte, opOf_run _ n hn, payloadOf_append]

theorem Dec.bytes_diff {d : Dec} (hs : d.atOpStart = true) (rr gg bb : BitVec 2) :
    Dec.bytes (encode (.diff rr gg bb)) d = (d.accept 1).diffOp rr gg bb := by
  rw [encode, Dec.bytes_one hs]
  simp only [Dec.firstByte, opOf_diff, diffR_append, diffG_append, diffB_append]

/-- A byte `00` at the target starts END, and so does INDEX 0 there (R178). -/
theorem Dec.bytes_index {d : Dec} (hs : d.atOpStart = true) (i : BitVec 6) :
    Dec.bytes (encode (.index i)) d = (d.accept 1).indexOp i := by
  rw [encode, Dec.bytes_one hs]
  by_cases h : i = 0 ∧ d.count = d.target
  · obtain ⟨rfl, hc⟩ := h
    rw [Dec.indexOp_at_zero (d := d.accept 1) hc]
    have ht : (d.accept 1).atTarget = true := decide_eq_true hc
    simp [Dec.firstByte, ht]
  · have hi : i = 0 → (d.accept 1).atTarget = false := fun hi => decide_eq_false fun hc => h ⟨hi, hc⟩
    simp only [Dec.firstByte, opOf_index _ i hi, payloadOf_append]

/-- A byte of END leaves END pending or takes DEC out of BODY (R183). -/
theorem Dec.endByte_st {d : Dec} (hst : d.st = .body) (hop : d.op = .endm) (b : Byte) :
    (d.endByte b).st ≠ .header ∧ ((d.endByte b).st = .body → (d.endByte b).op = .endm) := by
  unfold Dec.endByte
  repeat' split
  all_goals simp [hst, hop]

/-- With END pending, bytes are checked against its seven until one fails or the last is in (R183). -/
theorem Dec.bytes_endBytes (bs : List Byte) {d : Dec} (hh : d.st ≠ .header) (hop : d.st = .body → d.op = .endm) :
    Dec.bytes bs d = (d.endBytes bs, []) := by
  induction bs generalizing d with
  | nil => rfl
  | cons b bs ih =>
    by_cases hst : d.st = .body
    · obtain ⟨hh', hop'⟩ := Dec.endByte_st (d := d.accept 1) hst (hop hst) b
      have hbyte : d.byte b = ((d.accept 1).endByte b, []) := by
        rw [Dec.byte_of_pending hst (by simp [hop hst]), Dec.operand_endm (d := d.accept 1) (hop hst)]
      rw [Dec.bytes_cons, hbyte, ih hh' hop', Dec.endBytes, if_pos hst]
      rfl
    · rw [Dec.bytes_of_not_accepts _ (by simp [Dec.accepts, hh, hst]), Dec.endBytes, if_neg hst]

theorem Dec.bytes_endMarker {d : Dec} (hs : d.atOpStart = true) (ht : d.atTarget = true)
    (b1 b2 b3 b4 b5 b6 b7 : Byte) :
    Dec.bytes (encode (.endMarker b1 b2 b3 b4 b5 b6 b7)) d = d.endOp [b1, b2, b3, b4, b5, b6, b7] := by
  have hst := (Dec.atOpStart_iff.1 hs).1
  have ht' : (d.accept 1).atTarget = true := ht
  have hbyte : d.byte 0#8 = ((d.accept 1).endStart, []) := by simp [Dec.byte_of_start hs, Dec.firstByte, ht']
  rw [encode, Dec.bytes_cons, hbyte, Dec.bytes_endBytes _ (by simp [hst]) (by simp), Dec.endOp]
  rfl

/-- An op's bytes offered one by one are one `putAll`. -/
theorem offerBytes_encode (i : Instr) (s : State) :
    offerBytes (encode i) s = putAll s (Dec.bytes (encode i) s.dec) :=
  offerBytes_eq_putAll _ s (Nat.lt_of_le_of_lt (encode_length_le i) (by decide))

/-- A row of the table is run whole where its condition holds and offered byte by byte elsewhere (log 14): where the
op whole is its bytes' effect on the decoder, both are one `putAll`. -/
theorem wholeOrOffered_eq_putAll {i : Instr} {s : State} {whole : Dec × List Pixel} {c : Bool}
    (h : c = true → Dec.bytes (encode i) s.dec = whole) :
    (if c then putAll s whole else offerBytes (encode i) s) = putAll s (Dec.bytes (encode i) s.dec) := by
  split
  · rw [h ‹_›]
  · exact offerBytes_encode i s

/-- The meaning of an op that exists is its bytes' effect on the decoder, ended by one `putAll`. -/
theorem exec_eq_putAll {i : Instr} (s : State) (hi : i.wf = true ∨ i.isEnd = true) :
    exec i s = putAll s (Dec.bytes (encode i) s.dec) := by
  cases i with
  | rgb r g b => exact wholeOrOffered_eq_putAll fun hs => Dec.bytes_rgb hs r g b
  | rgba r g b a => exact wholeOrOffered_eq_putAll fun hs => Dec.bytes_rgba hs r g b a
  | run n =>
    have hn : n.toNat ≤ 61 := by simpa [Instr.wf, Instr.isEnd] using hi
    rw [exec, execRun, if_pos hn]
    exact wholeOrOffered_eq_putAll fun hs => Dec.bytes_run hs hn
  | index k => exact wholeOrOffered_eq_putAll fun hs => Dec.bytes_index hs k
  | diff rr gg bb => exact wholeOrOffered_eq_putAll fun hs => Dec.bytes_diff hs rr gg bb
  | luma gg xx yy => exact wholeOrOffered_eq_putAll fun hs => Dec.bytes_luma hs gg xx yy
  | endMarker b1 b2 b3 b4 b5 b6 b7 =>
    refine wholeOrOffered_eq_putAll fun hs => ?_
    obtain ⟨hs, ht⟩ := Bool.and_eq_true_iff.1 hs
    exact Dec.bytes_endMarker hs ht b1 b2 b3 b4 b5 b6 b7

/-- Settles O22: both sides are one `putAll` of the decoder after the op's bytes. -/
theorem opIsItsBytesInOrder : Obligations.OpIsItsBytesInOrder := by
  intro i s hi
  rw [exec_eq_putAll s hi, events_decByte, offerBytes_encode]

/-- An op with a next state exists: only RUN 62 and 63 do not, and they are refused (R96, R103). -/
theorem exec_next_exists {i : Instr} {s t : State} (h : exec i s = .next t) : i.wf = true ∨ i.isEnd = true := by
  cases i with
  | run n =>
    by_cases hn : n.toNat ≤ 61
    · exact .inl (decide_eq_true hn)
    · rw [exec, execRun, if_neg hn] at h
      cases h
  | rgb r g b => exact .inl rfl
  | rgba r g b a => exact .inl rfl
  | index k => exact .inl rfl
  | diff rr gg bb => exact .inl rfl
  | luma gg xx yy => exact .inl rfl
  | endMarker b1 b2 b3 b4 b5 b6 b7 => exact .inr rfl

/-- Everything an op can answer with a next state: the decoder its bytes leave, with the pixels they put. -/
theorem exec_next {i : Instr} {s t : State} (h : exec i s = .next t) :
    t = { s with
      dec := (Dec.bytes (encode i) s.dec).1
      pout := s.pout ++ (Dec.bytes (encode i) s.dec).2.map (lane Config.pixelOrderDec) } :=
  (putAll_next ((exec_eq_putAll s (exec_next_exists h)).symm.trans h)).2

end Sys2Proof.Machine
end

section
/-! PROOFS. The step and the host's events (00_scope.md R12; 70_reset_and_hazards.md R250). -/

namespace Sys2Proof.Machine

/-- The op fetched exists, and its bytes are the first events. -/
theorem fetch_pending {s : State} {i : Instr} (h : fetch s = some i) :
    (i.wf = true ∨ i.isEnd = true) ∧ ∃ evs, s.pending = (encode i).map Event.decByte ++ evs := by
  obtain ⟨-, rest, hdec⟩ := fetch_some h
  obtain ⟨hbytes, hi⟩ := decode_ok hdec
  obtain ⟨evs, hevs⟩ := leadingBytes_split s.pending
  refine ⟨hi, rest.map Event.decByte ++ evs, ?_⟩
  rw [hevs, hbytes, List.map_append, List.append_assoc]

/-- Settles O27: an op's step is its bytes' events by O22, any other step is the first event alone. -/
theorem stepIsEventsInOrder : Obligations.StepIsEventsInOrder := by
  intro s t h
  rcases step_next h with ⟨i, hf, hexec⟩ | ⟨ev, evs, -, hp, hev⟩
  · obtain ⟨hi, evs, hp⟩ := fetch_pending hf
    refine ⟨(encode i).length, encode_length_pos i, by simp [hp], ?_⟩
    have htake : s.pending.take (encode i).length = (encode i).map Event.decByte := by simp [hp]
    rw [htake, ← opIsItsBytesInOrder i _ hi]
    exact hexec
  · refine ⟨1, Nat.le_refl 1, by simp [hp], ?_⟩
    simp [hp, events, hev]

/-- With no event pending there is no op to fetch. -/
theorem fetch_of_pending_nil {s : State} (h : s.pending = []) : fetch s = none := by
  simp [fetch, h, leadingBytes, decode]

/-- Settles O26: with no op fetched `step` has only its two event branches, and none is fetched from no events. -/
theorem stepTakesOneEvent : Obligations.StepTakesOneEvent := by
  constructor
  · intro s ev evs hf hp
    simp [step, hf, hp, State.take]
  · intro s hp
    simp [step, fetch_of_pending_nil hp, hp]

end Sys2Proof.Machine
end

section
/-! PROOFS. What ops and events leave alone (00_scope.md R12, R20; 60_exceptions.md R215). -/

namespace Sys2Proof.Machine

/-- The header's fields are as before, and HEADER is not entered. -/
def Dec.HeaderKept (d d' : Dec) : Prop := d.SameHeader d' ∧ (d'.st = .header → d.st = .header)

/-- An update that writes none of these fields is closed by this too: each of them is the same by definition. -/
theorem Dec.HeaderKept.refl (d : Dec) : d.HeaderKept d := ⟨⟨rfl, rfl, rfl, rfl, rfl, rfl, rfl⟩, id⟩

theorem Dec.HeaderKept.trans {d d' d'' : Dec} (h : d.HeaderKept d') (h' : d'.HeaderKept d'') : d.HeaderKept d'' := by
  obtain ⟨⟨h1, h2, h3, h4, h5, h6, h7⟩, hst⟩ := h
  obtain ⟨⟨k1, k2, k3, k4, k5, k6, k7⟩, hst'⟩ := h'
  exact ⟨⟨k1.trans h1, k2.trans h2, k3.trans h3, k4.trans h4, k5.trans h5, k6.trans h6, k7.trans h7⟩, hst ∘ hst'⟩

theorem Dec.raise_headerKept (d : Dec) (x : ErrCode) : d.HeaderKept (d.raise x) :=
  ⟨⟨rfl, rfl, rfl, rfl, rfl, rfl, rfl⟩, fun h => by cases h⟩

theorem Dec.deliver_headerKept (d : Dec) (p : Pixel) (k : Bool) : d.HeaderKept (d.deliver p k).1 :=
  Dec.HeaderKept.refl d

theorem Dec.orOverflow_headerKept {d : Dec} {r : Dec × List Pixel} (h : d.HeaderKept r.1) :
    d.HeaderKept (d.orOverflow r).1 := by
  unfold Dec.orOverflow
  split
  · exact Dec.raise_headerKept d _
  · exact h

theorem Dec.tagByte_headerKept (d : Dec) (o : PendingOp) (b : Byte) : d.HeaderKept (d.tagByte o b).1 :=
  Dec.orOverflow_headerKept (Dec.HeaderKept.refl d)

theorem Dec.runOp_headerKept (d : Dec) (n : BitVec 6) : d.HeaderKept (d.runOp n).1 := by
  unfold Dec.runOp
  split
  · exact Dec.raise_headerKept d _
  · exact Dec.HeaderKept.refl d

theorem Dec.endStart_headerKept (d : Dec) : d.HeaderKept d.endStart := Dec.HeaderKept.refl d

theorem Dec.indexOp_headerKept (d : Dec) (i : BitVec 6) : d.HeaderKept (d.indexOp i).1 := by
  unfold Dec.indexOp
  repeat' split
  · exact Dec.endStart_headerKept d
  · exact Dec.raise_headerKept d _
  · exact Dec.deliver_headerKept d _ _

theorem Dec.firstByte_headerKept (d : Dec) (b : Byte) : d.HeaderKept (d.firstByte b).1 := by
  unfold Dec.firstByte
  split
  · exact Dec.tagByte_headerKept d _ b
  · exact Dec.tagByte_headerKept d _ b
  · exact Dec.runOp_headerKept d _
  · exact Dec.indexOp_headerKept d _
  · exact Dec.endStart_headerKept d
  · exact Dec.orOverflow_headerKept (Dec.deliver_headerKept d _ _)
  · exact Dec.tagByte_headerKept d _ b

theorem Dec.endByte_headerKept (d : Dec) (b : Byte) : d.HeaderKept (d.endByte b) := by
  unfold Dec.endByte
  repeat' split
  · exact Dec.raise_headerKept d _
  · exact ⟨⟨rfl, rfl, rfl, rfl, rfl, rfl, rfl⟩, fun h => by cases h⟩
  · exact Dec.HeaderKept.refl d

theorem Dec.operand_headerKept (d : Dec) (b : Byte) : d.HeaderKept (d.operand b).1 := by
  unfold Dec.operand
  repeat' split
  · exact Dec.endByte_headerKept d b
  · exact Dec.HeaderKept.refl d
  · exact Dec.HeaderKept.refl d

/-- Past HEADER no byte writes the header's fields (R122, R172). -/
theorem Dec.byte_headerKept {d : Dec} (h : d.st ≠ .header) (b : Byte) : d.HeaderKept (d.byte b).1 := by
  by_cases hst : d.st = .body
  · have hacc : d.HeaderKept (d.accept 1) := Dec.HeaderKept.refl d
    by_cases hop : d.op = .none
    · rw [Dec.byte_of_start (Dec.atOpStart_iff.2 ⟨hst, hop⟩)]
      exact hacc.trans (Dec.firstByte_headerKept _ b)
    · rw [Dec.byte_of_pending hst hop]
      exact hacc.trans (Dec.operand_headerKept _ b)
  · rw [Dec.byte_of_not_accepts b (by simp [Dec.accepts, h, hst])]
    exact Dec.HeaderKept.refl d

theorem Dec.bytes_headerKept (bs : List Byte) {d : Dec} (h : d.st ≠ .header) : d.HeaderKept (Dec.bytes bs d).1 := by
  induction bs generalizing d with
  | nil => exact Dec.HeaderKept.refl d
  | cons b bs ih =>
    have hb := Dec.byte_headerKept h b
    exact hb.trans (ih (mt hb.2 h))

/-- Settles O19: an op is its bytes, and past HEADER no byte writes the header's fields. -/
theorem opsLeaveTheRestAlone : Obligations.OpsLeaveTheRestAlone := by
  intro i s t hs h
  have hst := (Dec.atOpStart_iff.1 hs).1
  rw [exec_next h]
  exact ⟨⟨rfl, rfl, rfl, rfl⟩, (Dec.bytes_headerKept _ (by simp [hst])).1, _, rfl⟩

/-- Everything an ENC event's answer can be with a next state. -/
theorem encAnswer_next {s t : State} {x : Except Refusal (Enc × List Byte)} (h : encAnswer s x = .next t) :
    ∃ e bs, x = .ok (e, bs) ∧ t = { s with enc := e, out := s.out ++ bs } := by
  cases x with
  | error r => cases h
  | ok r => exact ⟨r.1, r.2, rfl, by cases h; rfl⟩

/-- Everything a DEC event's answer can be with a next state. -/
theorem decAnswer_next {s t : State} {x : Except Refusal (Dec × List Pixel)} (h : decAnswer s x = .next t) :
    ∃ d ps, x = .ok (d, ps) ∧
      t = { s with dec := d, pout := s.pout ++ ps.map (lane Config.pixelOrderDec) } := by
  cases x with
  | error r => cases h
  | ok r => exact ⟨r.1, r.2, rfl, by cases h; rfl⟩

/-- An ENC event with a next state has changed the encoder and lengthened `OUT`, and does the same to every machine
with that encoder. -/
theorem event_forEnc_next {ev : Event} {s t : State} (hev : ev.forEnc = true) (h : event ev s = .next t) :
    ∃ e bs, t = { s with enc := e, out := s.out ++ bs } ∧
      ∀ s', s'.enc = s.enc → event ev s' = .next { s' with enc := e, out := s'.out ++ bs } := by
  obtain ⟨f, hf⟩ := event_forEnc hev
  rw [hf] at h
  obtain ⟨e, bs, hx, ht⟩ := encAnswer_next h
  exact ⟨e, bs, ht, fun s' hs' => by rw [hf, hs', hx]; rfl⟩

/-- A DEC event with a next state has changed the decoder and lengthened `POUT`, and does the same to every machine
with that decoder. -/
theorem event_forDec_next {ev : Event} {s t : State} (hev : ev.forDec = true) (h : event ev s = .next t) :
    ∃ d ps, t = { s with dec := d, pout := s.pout ++ ps } ∧
      ∀ s', s'.dec = s.dec → event ev s' = .next { s' with dec := d, pout := s'.pout ++ ps } := by
  obtain ⟨f, hf⟩ := event_forDec hev
  rw [hf] at h
  obtain ⟨d, ps, hx, ht⟩ := decAnswer_next h
  exact ⟨d, ps.map (lane Config.pixelOrderDec), ht, fun s' hs' => by rw [hf, hs', hx]; rfl⟩

/-- Settles O53: an engine's event writes that engine and its stream only. -/
theorem enginesAreIsolated : Obligations.EnginesAreIsolated := by
  intro ev s t h
  constructor
  · intro hev
    obtain ⟨e, bs, rfl, -⟩ := event_forEnc_next hev h
    exact ⟨rfl, rfl, rfl, rfl⟩
  · intro hev
    obtain ⟨d, ps, rfl, -⟩ := event_forDec_next hev h
    exact ⟨rfl, rfl, rfl, rfl⟩

/-- Settles O54: an engine's event is a function of that engine. -/
theorem enginesDoNotRead : Obligations.EnginesDoNotRead := by
  constructor
  · intro ev s s' t hev hs h
    obtain ⟨e, bs, rfl, hsame⟩ := event_forEnc_next hev h
    exact ⟨_, bs, hsame s' hs.symm, rfl, rfl, rfl⟩
  · intro ev s s' t hev hs h
    obtain ⟨d, ps, rfl, hsame⟩ := event_forDec_next hev h
    exact ⟨_, ps, hsame s' hs.symm, rfl, rfl, rfl⟩

/-- An event only appends to the output streams; a reset leaves them (R74, R240). -/
theorem event_outputs_extend {ev : Event} {s t : State} (h : event ev s = .next t) :
    s.out <+: t.out ∧ s.pout <+: t.pout := by
  rcases ev.cases_for with hev | hev | rfl
  · obtain ⟨e, bs, rfl, -⟩ := event_forEnc_next hev h
    exact ⟨List.prefix_append _ _, List.prefix_rfl⟩
  · obtain ⟨d, ps, rfl, -⟩ := event_forDec_next hev h
    exact ⟨List.prefix_rfl, List.prefix_append _ _⟩
  · cases h
    exact ⟨List.prefix_rfl, List.prefix_rfl⟩

/-- A step only appends to the output streams. -/
theorem step_outputs_extend {s t : State} (h : step s = .next t) : s.out <+: t.out ∧ s.pout <+: t.pout := by
  rcases step_next h with ⟨i, -, hexec⟩ | ⟨ev, evs, -, -, hev⟩
  · rw [exec_next hexec]
    exact ⟨List.prefix_rfl, List.prefix_append _ _⟩
  · exact event_outputs_extend (s := { s with pending := evs }) hev

/-- Settles O56, by the two kinds of step: an op, or one event. -/
theorem outputsAreFinal : Obligations.OutputsAreFinal := by
  intro s t h
  obtain ⟨⟨bs, hout⟩, ps, hpout⟩ := step_outputs_extend h
  exact ⟨⟨bs, hout.symm⟩, ps, hpout.symm⟩

end Sys2Proof.Machine
end

section
/-! PROOFS. The encoder's events: what they can answer, and the invariant they keep (10_state.md R28, R29, R33;
41_encoder.md R140 to R156). -/

namespace Sys2Proof.Machine

theorem legalChannels_iff : ∀ b : Byte, legalChannels b = true ↔ b.toNat = 3 ∨ b.toNat = 4 := by decide

theorem legalColorspace_iff : ∀ b : Byte, legalColorspace b = true ↔ b.toNat ≤ 1 := by decide

theorem Enc.header_length (e : Enc) : e.header.length = 14 := rfl

/-- Finishing leaves no repeat pending and the encode in DONE (R153). -/
theorem Enc.finalize_fst (e : Enc) : e.finalize.1 = { e with run := 0, st := .done } := by
  rw [Enc.finalize, Enc.runFlush_fst]

/-- Finishing emits the pending run's byte and the end marker (R153). -/
theorem Enc.opBytes_finalize (e : Enc) : opBytes e.finalize.2 = runBytes e.run ++ encode .theEnd := by
  rw [Enc.finalize, opBytes_append, opBytes_runFlush, opBytes_one]

/-- The encoder after an accepted ENC_START: an image of no pixels is done at once (R141). -/
def Enc.started (e : Enc) : Enc :=
  { e with
    err := .none
    prev := Pixel.initPrev
    cache := Memory.cleared
    run := 0
    count := 0
    target := area e.cfgWidth e.cfgHeight
    st := if area e.cfgWidth e.cfgHeight = 0 then .done else .body
    outpos := if area e.cfgWidth e.cfgHeight = 0 then 22 else 14 }

/-- The bytes an accepted ENC_START emits (R120, R141). -/
def Enc.startBytes (e : Enc) : List Byte :=
  e.header ++ if area e.cfgWidth e.cfgHeight = 0 then encode .theEnd else []

/-- ENC_START with a legal configuration of the right length (R140, R141). -/
theorem encStart_of_legal {s : State} (hst : s.enc.st ≠ .body) (hc : legalChannels s.enc.cfgChannels = true)
    (hk : legalColorspace s.enc.cfgColorspace = true) (hlen : s.enc.cfgPixlen = area s.enc.cfgWidth s.enc.cfgHeight) :
    encStart s = .next { s with enc := s.enc.started, out := s.out ++ s.enc.startBytes } := by
  rw [encStart, if_neg hst, if_neg (by simp [hc, hk]), if_neg (not_not.2 hlen), Enc.finishIfEmpty]
  have hrun : runBytes s.enc.clearForStart.startEncode.run = [] := rfl
  by_cases h0 : area s.enc.cfgWidth s.enc.cfgHeight = 0#64
  · rw [if_pos (by simpa using h0), Enc.opBytes_finalize, Enc.finalize_fst, hrun,
      emit_of_room (by simp [Enc.header_length, encode, Instr.theEnd, posMax])]
    simp [Enc.started, Enc.startBytes, h0, Enc.header_length, encode, Instr.theEnd, Enc.startEncode, Enc.clearForStart]
  · rw [if_neg (by simpa using h0), emit_of_room (by simp [Enc.header_length, posMax])]
    simp [Enc.started, Enc.startBytes, h0, Enc.header_length, Enc.startEncode, Enc.clearForStart]

/-- Everything ENC_START can answer with a next state (R140). -/
theorem encStart_next {s t : State} (h : encStart s = .next t) :
    t = { s with enc := s.enc.clearForStart.raise .dimensionsMismatchPixelsLength } ∨
      t = { s with enc := s.enc.started, out := s.out ++ s.enc.startBytes } := by
  by_cases hst : s.enc.st = .body
  · rw [encStart, if_pos hst] at h
    cases h
  by_cases hl : (legalChannels s.enc.cfgChannels && legalColorspace s.enc.cfgColorspace) = false
  · rw [encStart, if_neg hst, if_pos hl] at h
    cases h
  by_cases hlen : s.enc.cfgPixlen = area s.enc.cfgWidth s.enc.cfgHeight
  · obtain ⟨hc, hk⟩ := Bool.and_eq_true_iff.1 (Bool.not_eq_false _ ▸ hl)
    rw [encStart_of_legal hst hc hk hlen] at h
    cases h
    exact .inr rfl
  · rw [encStart, if_neg hst, if_neg hl, if_pos hlen] at h
    cases h
    exact .inl rfl

/-- Everything ENC_PIXEL can answer with a next state (R142, R157). -/
theorem encPixel_next {s t : State} {w : Lanes} (h : encPixel w s = .next t) :
    s.enc.st = .body ∧ emit s (s.enc.pixel (unlane Config.pixelOrderEnc w)).1
      (opBytes (s.enc.pixel (unlane Config.pixelOrderEnc w)).2) = .next t := by
  unfold encPixel at h
  split at h
  · exact ⟨‹_›, h⟩
  · cases h

/-- Everything ENC_IOERR can answer (R156). -/
theorem encIoErr_next {s t : State} (h : encIoErr s = .next t) :
    ((s.enc.st = .body ∨ s.enc.st = .done) ∧ t = { s with enc := s.enc.raise .ioError }) ∨
      (s.enc.st ≠ .body ∧ s.enc.st ≠ .done ∧ t = s) := by
  unfold encIoErr at h
  cases hst : s.enc.st with
  | body | done =>
    rw [hst] at h
    cases h
    exact .inl ⟨by simp, rfl⟩
  | idle | error =>
    rw [hst] at h
    cases h
    exact .inr ⟨by simp, by simp, rfl⟩

/-- Everything a write of an ENC register can answer with a next state: START's, or a state that differs in the
configuration only (R32, R34 to R36, R43). -/
theorem encWrite_next {r : EncReg} {v : BitVec 64} {s t : State} (h : encWrite r v s = .next t) :
    (r = .ctrl ∧ v.getLsbD 0 = true ∧ encStart s = .next t) ∨
      ∃ w ht c k n, t = { s with enc := { s.enc with
        cfgWidth := w, cfgHeight := ht, cfgChannels := c, cfgColorspace := k, cfgPixlen := n } } := by
  cases r with
  | ctrl =>
    by_cases hv : v.getLsbD 0 = true
    · exact .inl ⟨rfl, hv, by simpa [encWrite, hv] using h⟩
    · rw [encWrite, if_neg hv] at h
      cases h
      exact .inr ⟨_, _, _, _, _, rfl⟩
  | width | height | channels | colorspace | pixlen | status | count | outpos =>
    cases h
    exact .inr ⟨_, _, _, _, _, rfl⟩

/-! ### The invariant -/

/-- `raise` needs of the invariant only what holds in every state (R214). -/
theorem Enc.inv_raise {e : Enc} {x : ErrCode} (hx : x = .dimensionsMismatchPixelsLength ∨ x = .ioError)
    (hcache : e.cache.wf = true) (hcount : e.count.toNat ≤ e.target.toNat) : (e.raise x).Inv where
  errIff := by rcases hx with rfl | rfl <;> simp
  errKind := .inr hx
  cacheWf := hcache
  countLe := hcount
  inBody := by simp
  inDone := by simp

/-- The invariant says nothing of the configuration. -/
theorem Enc.Inv.config {e : Enc} (h : e.Inv) (w ht : BitVec 32) (c k : BitVec 8) (n : BitVec 64) :
    { e with cfgWidth := w, cfgHeight := ht, cfgChannels := c, cfgColorspace := k, cfgPixlen := n }.Inv :=
  ⟨h.errIff, h.errKind, h.cacheWf, h.countLe, h.inBody, h.inDone⟩

theorem Enc.started_inv (e : Enc) : e.started.Inv := by
  by_cases h0 : area e.cfgWidth e.cfgHeight = 0#64
  · constructor <;> simp [Enc.started, h0]
  · have hpos : 0 < (area e.cfgWidth e.cfgHeight).toNat :=
      Nat.pos_of_ne_zero fun hz => h0 (BitVec.eq_of_toNat_eq hz)
    constructor <;> simp [Enc.started, h0, hpos]

theorem Enc.started_outpos_toNat (e : Enc) : e.started.outpos.toNat = e.startBytes.length := by
  by_cases h0 : area e.cfgWidth e.cfgHeight = 0#64 <;>
    simp [Enc.started, Enc.startBytes, h0, Enc.header_length, encode, Instr.theEnd]

section
variable (e : Enc) (p : Pixel)

@[simp] theorem Enc.pixelOps_st : (e.pixelOps p).1.st = e.st := by rw [(Enc.pixelOps_keeps e p).1]

@[simp] theorem Enc.pixelOps_err : (e.pixelOps p).1.err = e.err := by rw [(Enc.pixelOps_keeps e p).1]

@[simp] theorem Enc.pixelOps_prev : (e.pixelOps p).1.prev = p := by rw [(Enc.pixelOps_keeps e p).1]

@[simp] theorem Enc.pixelOps_target : (e.pixelOps p).1.target = e.target := by rw [(Enc.pixelOps_keeps e p).1]

@[simp] theorem Enc.pixelOps_outpos : (e.pixelOps p).1.outpos = e.outpos := by rw [(Enc.pixelOps_keeps e p).1]

end

/-- A pixel keeps the cache in canonical form (R60, R146). -/
theorem Enc.pixelOps_cache_wf {e : Enc} (p : Pixel) (h : e.cache.wf = true) : (e.pixelOps p).1.cache.wf = true := by
  rcases (Enc.pixelOps_keeps e p).2 with hc | hc
  · rwa [hc]
  · rw [hc]
    exact Memory.wf_write _ _ h

/-- A pixel keeps the run counter in 0..61 (R28, R143). -/
theorem Enc.pixelOps_run_le {e : Enc} (p : Pixel) (h : e.run.toNat ≤ 61) : (e.pixelOps p).1.run.toNat ≤ 61 := by
  by_cases hp : p = e.prev
  · rw [Enc.pixelOps_repeat hp]
    by_cases hr : e.run.toNat = 61
    · simp [Enc.runStep_full hr]
    · rw [Enc.runStep_more hr]
      have h1 : (1 : BitVec 6).toNat = 1 := rfl
      simp only [BitVec.toNat_add, h1]
      omega
  · by_cases hc : e.cache.read (pixelHash p) = p
    · simp [Enc.pixelOps_hit hp hc]
    · simp [Enc.pixelOps_miss hp hc]

/-- A count that stays within its target does not wrap (R29). -/
theorem count_add_toNat {c t : BitVec 64} {n : Nat} (h : c.toNat + n ≤ t.toNat) :
    (c + BitVec.ofNat 64 n).toNat = c.toNat + n := by
  have := t.isLt
  simp only [BitVec.toNat_add, BitVec.toNat_ofNat]
  omega

/-- A pixel still owed makes room for one more count (R29). -/
theorem count_succ_toNat {c t : BitVec 64} (h : c.toNat < t.toNat) : (c + 1).toNat = c.toNat + 1 :=
  count_add_toNat (n := 1) h

/-- A pixel's step keeps the invariant, its bytes counted: the pixel owed in BODY makes room for one more (R152). -/
theorem Enc.Inv.pixel {e : Enc} (h : e.Inv) (hst : e.st = .body) (p : Pixel) {pos : BitVec 64}
    (hpos : pos.toNat = e.outpos.toNat + (opBytes (e.pixel p).2).length) :
    { (e.pixel p).1 with outpos := pos }.Inv := by
  obtain ⟨hrun, hcount, hhead⟩ := h.inBody hst
  have herr : e.err = .none := not_not.1 fun hx => by simpa [hst] using h.errIff.2 hx
  have hrun' := Enc.pixelOps_run_le p hrun
  have hcache := Enc.pixelOps_cache_wf p h.cacheWf
  have hsucc := count_succ_toNat hcount
  by_cases hlast : e.count + 1 = e.target
  · obtain ⟨hfst, hbytes⟩ := Enc.pixel_last p hlast
    rw [hbytes] at hpos
    simp only [List.length_append, List.length_cons] at hpos
    rw [hfst]
    exact
      { errIff := by simp [herr]
        errKind := .inl ((Enc.pixelOps_err e p).trans herr)
        cacheWf := hcache
        countLe := by rw [Enc.pixelOps_target, hlast]
        inBody := by simp
        inDone := fun _ => ⟨rfl, hlast.trans (Enc.pixelOps_target e p).symm, by simp only; omega⟩ }
  · have hne : (e.count + 1).toNat ≠ e.target.toNat := fun hx => hlast (BitVec.eq_of_toNat_eq hx)
    rw [Enc.pixel_more p hlast]
    exact
      { errIff := by simp [hst, herr]
        errKind := .inl ((Enc.pixelOps_err e p).trans herr)
        cacheWf := hcache
        countLe := by simp only [Enc.pixelOps_target]; omega
        inBody := fun _ => ⟨hrun', by simp only [Enc.pixelOps_target]; omega, by simp only; omega⟩
        inDone := by simp [hst] }

/-- The end of an ENC step that leaves the engine in its invariant keeps the machine's. -/
theorem emit_keeps_inv {s t : State} {e : Enc} {bs : List Byte} (h : s.Inv) (ht : emit s e bs = .next t)
    (hout : e.outpos = s.enc.outpos)
    (he : ∀ pos : BitVec 64, pos.toNat = e.outpos.toNat + bs.length → { e with outpos := pos }.Inv) : t.Inv := by
  obtain ⟨hroom, rfl⟩ := emit_next ht
  have hpos := outpos_toNat hroom
  have hle : e.outpos.toNat ≤ s.out.length := hout ▸ h.outpos
  refine ⟨he _ hpos, h.dec, ?_, h.count⟩
  simp only [List.length_append]
  omega

theorem encStart_keeps_inv {s t : State} (h : s.Inv) (ht : encStart s = .next t) : t.Inv := by
  rcases encStart_next ht with rfl | rfl
  · exact ⟨Enc.inv_raise (.inl rfl) h.enc.cacheWf (by simp), h.dec, by simp, h.count⟩
  · refine ⟨Enc.started_inv _, h.dec, ?_, h.count⟩
    simp [Enc.started_outpos_toNat]

theorem encPixel_keeps_inv {s t : State} {w : Lanes} (h : s.Inv) (ht : encPixel w s = .next t) : t.Inv := by
  obtain ⟨hst, hemit⟩ := encPixel_next ht
  have hout : (s.enc.pixel (unlane Config.pixelOrderEnc w)).1.outpos = s.enc.outpos := by
    by_cases hlast : s.enc.count + 1 = s.enc.target
    · simp [(Enc.pixel_last _ hlast).1]
    · simp [Enc.pixel_more _ hlast]
  exact emit_keeps_inv h hemit hout fun pos hpos => h.enc.pixel hst _ (by rw [hpos, hout])

theorem encIoErr_keeps_inv {s t : State} (h : s.Inv) (ht : encIoErr s = .next t) : t.Inv := by
  rcases encIoErr_next ht with ⟨-, rfl⟩ | ⟨-, -, rfl⟩
  · exact ⟨Enc.inv_raise (.inr rfl) h.enc.cacheWf h.enc.countLe, h.dec, h.outpos, h.count⟩
  · exact h

theorem encWrite_keeps_inv {r : EncReg} {v : BitVec 64} {s t : State} (h : s.Inv) (ht : encWrite r v s = .next t) :
    t.Inv := by
  rcases encWrite_next ht with ⟨-, -, hstart⟩ | ⟨w, hgt, c, k, n, rfl⟩
  · exact encStart_keeps_inv h hstart
  · exact ⟨h.enc.config w hgt c k n, h.dec, h.outpos, h.count⟩

end Sys2Proof.Machine
end

section
/-! PROOFS. The decoder's events: what they can answer, and the invariant they keep (10_state.md R29, R40 to R42;
40_header.md R122 to R127; 42_decoder.md R170 to R187). -/

namespace Sys2Proof.Machine

/-- DEC accepts bytes exactly in HEADER and BODY (R44). -/
theorem Dec.accepts_iff {d : Dec} : d.accepts = true ↔ d.st = .header ∨ d.st = .body := by
  simp [Dec.accepts]

/-- Everything DEC_BYTE can answer with a next state: a byte that is accepted had room. -/
theorem decByte_next {b : Byte} {s t : State} (h : decByte b s = .next t) :
    (s.dec.accepts = true → s.dec.inpos.toNat + 1 < posMax) ∧
      t = { s with dec := (s.dec.byte b).1, pout := s.pout ++ (s.dec.byte b).2.map (lane Config.pixelOrderDec) } := by
  refine ⟨fun ha => ?_, (putAll_next h).2⟩
  by_contra hfull
  have hi := Dec.byte_inpos s.dec b
  rw [if_pos ha] at hi
  rw [decByte, putAll_of_full hi (by decide) (by omega)] at h
  cases h

/-- Everything DEC_START can answer with a next state (R170). -/
theorem decStart_next {s t : State} (h : decStart s = .next t) :
    s.dec.st ≠ .header ∧ s.dec.st ≠ .body ∧ t = { s with dec := s.dec.start } := by
  unfold decStart at h
  cases hst : s.dec.st with
  | header | body =>
    rw [hst] at h
    cases h
  | idle | ended | error =>
    rw [hst] at h
    cases h
    exact ⟨by simp, by simp, rfl⟩

/-- Everything DEC_EOS can answer (R127, R185). -/
theorem decEos_next {s t : State} (h : decEos s = .next t) :
    (∃ x, (x = .invalidQOIHeader ∨ x = .invalidValueInHeader ∨ x = .missingEndBytes) ∧ s.dec.accepts = true ∧
        t = { s with dec := s.dec.raise x }) ∨
      (s.dec.accepts = false ∧ t = s) := by
  unfold decEos at h
  cases hst : s.dec.st with
  | header =>
    rw [hst] at h
    cases h
    by_cases hpos : s.dec.hpos < 4
    · exact .inl ⟨_, .inl rfl, by simp [Dec.accepts, hst], by rw [Dec.headerEos, if_pos hpos]⟩
    · exact .inl ⟨_, .inr (.inl rfl), by simp [Dec.accepts, hst], by rw [Dec.headerEos, if_neg hpos]⟩
  | body =>
    rw [hst] at h
    cases h
    exact .inl ⟨_, .inr (.inr rfl), by simp [Dec.accepts, hst], rfl⟩
  | idle | ended | error =>
    rw [hst] at h
    cases h
    exact .inr ⟨by simp [Dec.accepts, hst], rfl⟩

/-- Everything DEC_IOERR can answer (R128, R186). -/
theorem decIoErr_next {s t : State} (h : decIoErr s = .next t) :
    (s.dec.accepts = true ∧ t = { s with dec := s.dec.raise .ioError }) ∨ (s.dec.accepts = false ∧ t = s) := by
  unfold decIoErr at h
  cases hst : s.dec.st with
  | header | body =>
    rw [hst] at h
    cases h
    exact .inl ⟨by simp [Dec.accepts, hst], rfl⟩
  | idle | ended | error =>
    rw [hst] at h
    cases h
    exact .inr ⟨by simp [Dec.accepts, hst], rfl⟩

/-- Everything a write of a DEC register can answer with a next state (R39, R43). -/
theorem decWrite_next {r : DecReg} {v : BitVec 64} {s t : State} (h : decWrite r v s = .next t) :
    (r = .ctrl ∧ v.getLsbD 0 = true ∧ decStart s = .next t) ∨ t = s := by
  cases r with
  | ctrl =>
    by_cases hv : v.getLsbD 0 = true
    · exact .inl ⟨rfl, hv, by simpa [decWrite, hv] using h⟩
    · rw [decWrite, if_neg hv] at h
      cases h
      exact .inr rfl
  | status | width | height | channels | colorspace | target | count | inpos =>
    cases h
    exact .inr rfl

/-! ### The pixel count and what is put -/

/-- The count goes up by at most the pixels put (R29, R171). -/
theorem count_add_toNat_le (c : BitVec 64) (n : Nat) : (c + BitVec.ofNat 64 n).toNat ≤ c.toNat + n := by
  simp only [BitVec.toNat_add, BitVec.toNat_ofNat]
  omega

theorem Dec.orOverflow_count_le {d : Dec} {r : Dec × List Pixel} (h : r.1.count.toNat ≤ d.count.toNat + r.2.length) :
    (d.orOverflow r).1.count.toNat ≤ d.count.toNat + (d.orOverflow r).2.length := by
  unfold Dec.orOverflow
  split
  · simp
  · exact h

theorem Dec.deliver_count_le (d : Dec) (p : Pixel) (k : Bool) :
    (d.deliver p k).1.count.toNat ≤ d.count.toNat + (d.deliver p k).2.length :=
  count_add_toNat_le d.count 1

theorem Dec.firstByte_count_le (d : Dec) (b : Byte) :
    (d.firstByte b).1.count.toNat ≤ d.count.toNat + (d.firstByte b).2.length := by
  unfold Dec.firstByte
  split
  · exact Dec.orOverflow_count_le (Nat.le_refl _)
  · exact Dec.orOverflow_count_le (Nat.le_refl _)
  · unfold Dec.runOp
    split
    · exact Nat.le_refl _
    · simpa using count_add_toNat_le d.count _
  · unfold Dec.indexOp
    repeat' split
    · exact Nat.le_refl _
    · exact Nat.le_refl _
    · exact Dec.deliver_count_le d _ _
  · exact Nat.le_refl _
  · exact Dec.orOverflow_count_le (Dec.deliver_count_le d _ _)
  · exact Dec.orOverflow_count_le (Nat.le_refl _)

theorem Dec.operand_count_le (d : Dec) (b : Byte) :
    (d.operand b).1.count.toNat ≤ d.count.toNat + (d.operand b).2.length := by
  unfold Dec.operand
  repeat' split
  · unfold Dec.endByte
    repeat' split
    all_goals exact Nat.le_refl _
  · exact Dec.deliver_count_le (d.storeOperand b) _ true
  · exact Nat.le_refl _

theorem Dec.headerByte_count (d : Dec) (b : Byte) : (d.headerByte b).count = d.count := by
  unfold Dec.headerByte Dec.checkHeader
  repeat' split
  all_goals rfl

theorem Dec.byte_count_le (d : Dec) (b : Byte) :
    (d.byte b).1.count.toNat ≤ d.count.toNat + (d.byte b).2.length := by
  unfold Dec.byte
  split
  · simp [Dec.headerByte_count]
  · unfold Dec.bodyByte
    split
    · exact Dec.firstByte_count_le (d.accept 1) b
    · exact Dec.operand_count_le (d.accept 1) b
  all_goals exact Nat.le_refl _

/-! ### The invariant -/

/-- `raise` needs of the invariant only what holds in every state (R214). -/
theorem Dec.inv_raise {d : Dec} {x : ErrCode} (hx : x ≠ .none) (hx' : x ≠ .dimensionsMismatchPixelsLength)
    (hcache : d.cache.wf = true) (hcount : d.count.toNat ≤ d.target.toNat)
    (htarget : d.target = area d.width d.height) : (d.raise x).Inv where
  errIff := by simp [hx]
  errKind := hx'
  cacheWf := hcache
  countLe := hcount
  targetEq := htarget
  inHeader := by simp
  inBody := by simp
  inEnd := by simp

theorem Dec.Inv.raise {d : Dec} {x : ErrCode} (h : d.Inv) (hx : x ≠ .none)
    (hx' : x ≠ .dimensionsMismatchPixelsLength) : (d.raise x).Inv :=
  Dec.inv_raise hx hx' h.cacheWf h.countLe h.targetEq

theorem Dec.Inv.err_eq_none {d : Dec} (h : d.Inv) (hst : d.st ≠ .error) : d.err = .none :=
  not_not.1 (mt h.errIff.2 hst)

theorem Dec.start_inv (d : Dec) : d.start.Inv := by
  constructor <;> simp [area]

/-- What a byte in HEADER stores: its own place, and no other (R122). -/
theorem Dec.storeHeaderByte_hbuf_of_ne {d : Dec} (b : Byte) {j : Nat} (hj : j < 14) (hne : d.hpos ≠ j) :
    (d.storeHeaderByte b).hbuf[j] = d.hbuf[j] := by
  simp [Vector.getElem_setIfInBounds_ne, hne]

theorem Dec.storeHeaderByte_hbuf_of_eq {d : Dec} (b : Byte) {j : Nat} (hj : j < 14) (he : d.hpos = j) :
    (d.storeHeaderByte b).hbuf[j] = b := by
  simp [he]

/-- At an offset without a check a header byte is only stored (R122). -/
theorem Dec.headerByte_unchecked {d : Dec} (b : Byte) (h3 : d.hpos ≠ 3) (h12 : d.hpos ≠ 12) (h13 : d.hpos ≠ 13) :
    d.headerByte b = d.storeHeaderByte b := by
  rw [Dec.headerByte, Dec.checkHeader, if_neg h3, if_neg h12, if_neg h13]

theorem Dec.headerByte_three {d : Dec} (b : Byte) (h : d.hpos = 3) :
    d.headerByte b = if [(d.storeHeaderByte b).hbuf[0], (d.storeHeaderByte b).hbuf[1], (d.storeHeaderByte b).hbuf[2],
      (d.storeHeaderByte b).hbuf[3]] = magic then d.storeHeaderByte b
    else (d.storeHeaderByte b).raise .invalidQOIHeader := by
  rw [Dec.headerByte, Dec.checkHeader, if_pos h]

theorem Dec.headerByte_twelve {d : Dec} (b : Byte) (h : d.hpos = 12) :
    d.headerByte b = if legalChannels b = true then d.storeHeaderByte b
      else (d.storeHeaderByte b).raise .invalidValueInHeader := by
  rw [Dec.headerByte, Dec.checkHeader, if_neg (by omega), if_pos h]

theorem Dec.headerByte_thirteen {d : Dec} (b : Byte) (h : d.hpos = 13) :
    d.headerByte b = if legalColorspace b = true then (d.storeHeaderByte b).completeHeader
      else (d.storeHeaderByte b).raise .invalidValueInHeader := by
  rw [Dec.headerByte, Dec.checkHeader, if_neg (by omega), if_neg (by omega), if_pos h]

section
variable {d : Dec} (h : d.Inv) (hst : d.st = .header) (hin : (d.inpos + 1).toNat = d.inpos.toNat + 1) (b : Byte)
include h

/-- A header byte that fails its check leaves the invariant of ERROR (R123, R125, R126). -/
theorem Dec.Inv.headerFails {x : ErrCode} (hx : x = .invalidQOIHeader ∨ x = .invalidValueInHeader) :
    ((d.storeHeaderByte b).raise x).Inv := by
  rcases hx with rfl | rfl <;> exact Dec.inv_raise (by simp) (by simp) h.cacheWf h.countLe h.targetEq

include hst

/-- The magic once checked stays in the buffer. -/
theorem Dec.Inv.magic_kept (h4 : 4 ≤ d.hpos) :
    [(d.storeHeaderByte b).hbuf[0], (d.storeHeaderByte b).hbuf[1], (d.storeHeaderByte b).hbuf[2],
      (d.storeHeaderByte b).hbuf[3]] = magic := by
  obtain ⟨-, -, -, -, -, -, -, -, hmagic, -⟩ := h.inHeader hst
  rw [Dec.storeHeaderByte_hbuf_of_ne b _ (by omega), Dec.storeHeaderByte_hbuf_of_ne b _ (by omega),
    Dec.storeHeaderByte_hbuf_of_ne b _ (by omega), Dec.storeHeaderByte_hbuf_of_ne b _ (by omega)]
  exact hmagic h4

include hin

/-- A header byte that passes its check, where more are owed (R122). -/
theorem Dec.Inv.headerStays (hle : d.hpos ≤ 12)
    (hmagic : 3 ≤ d.hpos → [(d.storeHeaderByte b).hbuf[0], (d.storeHeaderByte b).hbuf[1],
      (d.storeHeaderByte b).hbuf[2], (d.storeHeaderByte b).hbuf[3]] = magic)
    (hchan : d.hpos = 12 → legalChannels b = true) : (d.storeHeaderByte b).Inv := by
  obtain ⟨-, hinpos, hop, hcount, hw, hh, hc, hk, -, -⟩ := h.inHeader hst
  exact
    { errIff := h.errIff
      errKind := h.errKind
      cacheWf := h.cacheWf
      countLe := h.countLe
      targetEq := h.targetEq
      inHeader := fun _ => ⟨Nat.succ_le_succ hle, hin.trans (congrArg (· + 1) hinpos), hop, hcount, hw, hh, hc, hk,
        fun h4 => hmagic (Nat.le_of_succ_le_succ h4), fun h13 => by
          have h12 : d.hpos = 12 := le_antisymm hle (Nat.le_of_succ_le_succ h13)
          rw [Dec.storeHeaderByte_hbuf_of_eq b _ h12]
          exact hchan h12⟩
      inBody := by simp [hst]
      inEnd := by simp [hst] }

/-- The last header byte opens BODY with a legal header in (R126). -/
theorem Dec.Inv.headerCompletes (h13 : d.hpos = 13) (hlegal : legalColorspace b = true) :
    (d.storeHeaderByte b).completeHeader.Inv := by
  obtain ⟨-, hinpos, -, hcount, -, -, -, -, -, hchan⟩ := h.inHeader hst
  have hin14 : (d.inpos + 1).toNat = 14 := by omega
  have h12 : (d.storeHeaderByte b).hbuf[12] = d.hbuf[12] := Dec.storeHeaderByte_hbuf_of_ne b _ (by omega)
  have hb : (d.storeHeaderByte b).hbuf[13] = b := Dec.storeHeaderByte_hbuf_of_eq b _ h13
  exact
    { errIff := by simp [Dec.completeHeader, h.err_eq_none (by simp [hst] : d.st ≠ .error)]
      errKind := h.errKind
      cacheWf := h.cacheWf
      countLe := by simp [Dec.completeHeader, hcount]
      targetEq := rfl
      inHeader := by simp [Dec.completeHeader]
      inBody := fun _ => ⟨congrArg (· + 1) h13, hin14.ge, (congrArg _ h12).trans (hchan h13.ge),
        (congrArg _ hb).trans hlegal, by simp [Dec.completeHeader], by simp [Dec.completeHeader],
        by simp [Dec.completeHeader]⟩
      inEnd := by simp [Dec.completeHeader] }

/-- A byte in HEADER keeps the invariant, by its offset's check (R122 to R126). -/
theorem Dec.Inv.headerByte : (d.headerByte b).Inv := by
  have hpos := (h.inHeader hst).1
  by_cases h3 : d.hpos = 3
  · rw [Dec.headerByte_three b h3]
    split
    · exact Dec.Inv.headerStays h hst hin b (by omega) (fun _ => ‹_›) (by omega)
    · exact h.headerFails b (.inl rfl)
  have hmagic := fun hle : 3 ≤ d.hpos => Dec.Inv.magic_kept h hst b (by omega)
  by_cases h12 : d.hpos = 12
  · rw [Dec.headerByte_twelve b h12]
    split
    · exact Dec.Inv.headerStays h hst hin b (by omega) hmagic (fun _ => ‹_›)
    · exact h.headerFails b (.inr rfl)
  by_cases h13 : d.hpos = 13
  · rw [Dec.headerByte_thirteen b h13]
    split
    · exact Dec.Inv.headerCompletes h hst hin b h13 ‹_›
    · exact h.headerFails b (.inr rfl)
  · rw [Dec.headerByte_unchecked b h3 h12 h13]
    exact Dec.Inv.headerStays h hst hin b (by omega) hmagic (fun hx => absurd hx h12)

end

/-- What a byte in BODY that neither fails nor ends the image owes to the invariant: nothing but the cache, the count
and the pending op's part of it. -/
theorem Dec.Inv.body {d : Dec} (h : d.Inv) (hst : d.st = .body) {q : Pixel} {cache : Memory} {count inpos : BitVec 64}
    {op : PendingOp} {tag : Byte} {opn : Nat} {buf : Vector Byte 4} (hin : inpos.toNat = d.inpos.toNat + 1)
    (hcache : cache.wf = true) (hcount : count.toNat ≤ d.target.toNat) (hopn : op ≠ .none → opn < need op)
    (hend : op = .endm → count = d.target ∧ 15 + opn ≤ inpos.toNat)
    (hop : op = .rgb ∨ op = .rgba ∨ op = .luma → count.toNat < d.target.toNat) :
    { d with prev := q, cache := cache, count := count, inpos := inpos, op := op, optag := tag, opn := opn,
             opbuf := buf }.Inv := by
  obtain ⟨hpos, hin14, hc, hk, -⟩ := h.inBody hst
  exact
    { errIff := h.errIff
      errKind := h.errKind
      cacheWf := hcache
      countLe := hcount
      targetEq := h.targetEq
      inHeader := by simp [hst]
      inBody := fun _ => ⟨hpos, by simp only; omega, hc, hk, hopn, hend, hop⟩
      inEnd := by simp [hst] }

/-- A pixel delivered below the target leaves no op pending and the count within it (R171, R187). -/
theorem Dec.Inv.deliver {d : Dec} (h : d.Inv) (hst : d.st = .body) (hlt : d.count.toNat < d.target.toNat)
    {inpos : BitVec 64} (hin : inpos.toNat = d.inpos.toNat + 1) {tag : Byte} {opn : Nat} {buf : Vector Byte 4}
    (p : Pixel) (k : Bool) :
    ({ d with inpos := inpos, op := .none, optag := tag, opn := opn, opbuf := buf }.deliver p k).1.Inv := by
  refine h.body hst hin ?_ ?_ (by simp) (by simp) (by simp)
  · cases k with
    | true => exact Memory.wf_write _ _ h.cacheWf
    | false => exact h.cacheWf
  · simp only [count_succ_toNat hlt]
    omega

theorem opOf_endMarker_atTarget (t : Bool) : ∀ b : Byte, opOf t b = .endMarker → t = true := by cases t <;> decide

section
variable {d : Dec} (h : d.Inv) (hst : d.st = .body) (hin : (d.inpos + 1).toNat = d.inpos.toNat + 1)
include h

/-- `OverflowCheck` lets an op pass only below the target (R181). -/
theorem Dec.Inv.orOverflow {r : Dec × List Pixel} (hr : d.count.toNat < d.target.toNat → r.1.Inv) :
    ((d.accept 1).orOverflow r).1.Inv := by
  by_cases hc : d.count = d.target
  · rw [Dec.orOverflow_at (d := d.accept 1) hc]
    exact Dec.inv_raise (by simp) (by simp) h.cacheWf h.countLe h.targetEq
  · rw [Dec.orOverflow_below (d := d.accept 1) hc]
    exact hr (lt_of_le_of_ne h.countLe fun hx => hc (BitVec.eq_of_toNat_eq hx))

include hst hin

theorem Dec.Inv.tagByte {o : PendingOp} (ho : o = .rgb ∨ o = .rgba ∨ o = .luma) (b : Byte) :
    ((d.accept 1).tagByte o b).1.Inv := by
  refine h.orOverflow fun hlt => ?_
  exact h.body hst hin h.cacheWf h.countLe (by rcases ho with rfl | rfl | rfl <;> simp [need])
    (by rcases ho with rfl | rfl | rfl <;> simp) fun _ => hlt

theorem Dec.Inv.runOp (hop : d.op = .none) (n : BitVec 6) : ((d.accept 1).runOp n).1.Inv := by
  have hn := n.isLt
  have ht := d.target.isLt
  by_cases hfit : d.count.toNat + (n.toNat + 1) ≤ d.target.toNat
  · rw [Dec.runOp_fits (d := d.accept 1) hfit]
    refine h.body hst hin h.cacheWf ?_ (by simp [hop]) (by simp [hop]) (by simp [hop])
    exact (count_add_toNat_le _ _).trans hfit
  · rw [Dec.runOp_over (d := d.accept 1) (Nat.lt_of_not_le hfit)]
    exact Dec.inv_raise (by simp) (by simp) h.cacheWf h.countLe h.targetEq

theorem Dec.Inv.endStart (hc : d.count = d.target) : (d.accept 1).endStart.Inv := by
  obtain ⟨-, hin14, -⟩ := h.inBody hst
  have hin15 : 15 + 0 ≤ (d.inpos + 1).toNat := by omega
  exact h.body hst hin h.cacheWf h.countLe (by simp [need]) (fun _ => ⟨hc, hin15⟩) (by simp)

theorem Dec.Inv.indexOp (hop : d.op = .none) (i : BitVec 6) : ((d.accept 1).indexOp i).1.Inv := by
  by_cases hc : d.count = d.target
  · by_cases hi : i = 0
    · rw [hi, Dec.indexOp_at_zero (d := d.accept 1) hc]
      exact Dec.Inv.endStart h hst hin hc
    · rw [Dec.indexOp_at_other (d := d.accept 1) hc hi]
      exact Dec.inv_raise (by simp) (by simp) h.cacheWf h.countLe h.targetEq
  · rw [Dec.indexOp_below (d := d.accept 1) hc]
    have hlt := lt_of_le_of_ne h.countLe fun hx => hc (BitVec.eq_of_toNat_eq hx)
    have := h.deliver hst hlt hin (tag := d.optag) (opn := d.opn) (buf := d.opbuf) (d.cache.read i) false
    rwa [← hop] at this

theorem Dec.Inv.firstByte (hop : d.op = .none) (b : Byte) : ((d.accept 1).firstByte b).1.Inv := by
  unfold Dec.firstByte
  split
  · exact Dec.Inv.tagByte h hst hin (by simp) b
  · exact Dec.Inv.tagByte h hst hin (by simp) b
  · exact Dec.Inv.runOp h hst hin hop _
  · exact Dec.Inv.indexOp h hst hin hop _
  · rename_i hb
    exact Dec.Inv.endStart h hst hin (of_decide_eq_true (opOf_endMarker_atTarget _ b hb))
  · refine h.orOverflow fun hlt => ?_
    have := h.deliver hst hlt hin (tag := d.optag) (opn := d.opn) (buf := d.opbuf)
      (diffPixel d.prev (diffR b) (diffG b) (diffB b)) true
    rwa [← hop] at this
  · exact Dec.Inv.tagByte h hst hin (by simp) b

theorem Dec.Inv.endByte (hop : d.op = .endm) (b : Byte) : ((d.accept 1).endByte b).Inv := by
  obtain ⟨hpos, -, hc, hk, hopn, hend, -⟩ := h.inBody hst
  obtain ⟨hcount, hin15⟩ := hend hop
  have hlt : d.opn < 7 := by simpa [hop, need] using hopn (by simp [hop])
  have hin16 : 15 + (d.opn + 1) ≤ (d.inpos + 1).toNat := by omega
  by_cases hb : b = endExpected d.opn
  · by_cases h6 : d.opn = 6
    · rw [Dec.endByte_last (d := d.accept 1) hb h6]
      exact
        { errIff := by simp [h.err_eq_none (by simp [hst] : d.st ≠ .error)]
          errKind := h.errKind
          cacheWf := h.cacheWf
          countLe := h.countLe
          targetEq := h.targetEq
          inHeader := by simp
          inBody := by simp
          inEnd := fun _ => ⟨hcount, rfl, hc, hk, by rwa [h6] at hin16⟩ }
    · rw [Dec.endByte_right (d := d.accept 1) hb h6]
      refine h.body hst hin h.cacheWf h.countLe (fun _ => ?_) (fun _ => ⟨hcount, hin16⟩) (by simp [hop])
      simp only [Dec.accept_op, Dec.accept_opn, hop, need]
      omega
  · rw [Dec.endByte_wrong (d := d.accept 1) hb]
    exact Dec.inv_raise (by simp) (by simp) h.cacheWf h.countLe h.targetEq

theorem Dec.Inv.operand (hop : d.op ≠ .none) (b : Byte) : ((d.accept 1).operand b).1.Inv := by
  obtain ⟨-, -, -, -, hopn, -, hbelow⟩ := h.inBody hst
  by_cases he : d.op = .endm
  · rw [Dec.operand_endm (d := d.accept 1) he]
    exact Dec.Inv.endByte h hst hin he b
  have hlt : d.count.toNat < d.target.toNat := hbelow (by cases ho : d.op <;> simp [ho] at hop he ⊢)
  by_cases hn : d.opn + 1 = need d.op
  · rw [Dec.operand_last (d := d.accept 1) he hn]
    exact h.deliver hst hlt hin _ true
  · rw [Dec.operand_more (d := d.accept 1) he hn]
    have := hopn hop
    exact h.body hst hin h.cacheWf h.countLe (fun _ => by simp only [Dec.accept_op, Dec.accept_opn]; omega)
      (fun hx => absurd hx he) fun _ => hlt

end

/-- A byte keeps the decoder's invariant, whatever state takes it. -/
theorem Dec.Inv.byte {d : Dec} (h : d.Inv) (b : Byte) (hroom : d.accepts = true → d.inpos.toNat + 1 < posMax) :
    (d.byte b).1.Inv := by
  by_cases ha : d.accepts = true
  · have hin : (d.inpos + 1).toNat = d.inpos.toNat + 1 := inpos_toNat (n := 1) (hroom ha)
    rcases Dec.accepts_iff.1 ha with hst | hst
    · simpa [Dec.byte, hst] using Dec.Inv.headerByte h hst hin b
    · by_cases hop : d.op = .none
      · rw [Dec.byte_of_start (Dec.atOpStart_iff.2 ⟨hst, hop⟩)]
        exact Dec.Inv.firstByte h hst hin hop b
      · rw [Dec.byte_of_pending hst hop]
        exact Dec.Inv.operand h hst hin hop b
  · rwa [Dec.byte_of_not_accepts b (by simpa using ha)]

theorem decByte_keeps_inv {b : Byte} {s t : State} (h : s.Inv) (ht : decByte b s = .next t) : t.Inv := by
  obtain ⟨hroom, rfl⟩ := decByte_next ht
  refine ⟨h.enc, h.dec.byte b hroom, h.outpos, ?_⟩
  have hle := Dec.byte_count_le s.dec b
  have hcount := h.count
  simp only [List.length_append, List.length_map]
  omega

theorem decStart_keeps_inv {s t : State} (h : s.Inv) (ht : decStart s = .next t) : t.Inv := by
  obtain ⟨-, -, rfl⟩ := decStart_next ht
  exact ⟨h.enc, Dec.start_inv _, h.outpos, by simp⟩

theorem decEos_keeps_inv {s t : State} (h : s.Inv) (ht : decEos s = .next t) : t.Inv := by
  rcases decEos_next ht with ⟨x, hx, -, rfl⟩ | ⟨-, rfl⟩
  · refine ⟨h.enc, h.dec.raise ?_ ?_, h.outpos, h.count⟩ <;> rcases hx with rfl | rfl | rfl <;> simp
  · exact h

theorem decIoErr_keeps_inv {s t : State} (h : s.Inv) (ht : decIoErr s = .next t) : t.Inv := by
  rcases decIoErr_next ht with ⟨-, rfl⟩ | ⟨-, rfl⟩
  · exact ⟨h.enc, h.dec.raise (by simp) (by simp), h.outpos, h.count⟩
  · exact h

theorem decWrite_keeps_inv {r : DecReg} {v : BitVec 64} {s t : State} (h : s.Inv) (ht : decWrite r v s = .next t) :
    t.Inv := by
  rcases decWrite_next ht with ⟨-, -, hstart⟩ | rfl
  · exact decStart_keeps_inv h hstart
  · exact h

end Sys2Proof.Machine
end

section
/-! PROOFS. Every step keeps the machine's invariant, and reset meets it (10_state.md R28, R29, R33, R40, R47;
70_reset_and_hazards.md R240, R241). -/

namespace Sys2Proof.Machine

/-- An idle encoder needs of the invariant only its cache and its count. -/
theorem Enc.inv_of_idle {e : Enc} (hst : e.st = .idle) (herr : e.err = .none) (hcache : e.cache.wf = true)
    (hcount : e.count.toNat ≤ e.target.toNat) : e.Inv :=
  ⟨by simp [hst, herr], .inl herr, hcache, hcount, by simp [hst], by simp [hst]⟩

/-- An idle decoder needs of the invariant only its cache, its count and its target. -/
theorem Dec.inv_of_idle {d : Dec} (hst : d.st = .idle) (herr : d.err = .none) (hcache : d.cache.wf = true)
    (hcount : d.count.toNat ≤ d.target.toNat) (htarget : d.target = area d.width d.height) : d.Inv :=
  ⟨by simp [hst, herr], by simp [herr], hcache, hcount, htarget, by simp [hst], by simp [hst], by simp [hst]⟩

theorem Enc.afterReset_cache (k : Nat) : (Enc.afterReset k).cache = Memory.fill (Config.resetEncSlot k) := by
  simp only [Enc.afterReset]

theorem Dec.afterReset_cache (k : Nat) : (Dec.afterReset k).cache = Memory.fill (Config.resetDecSlot k) := by
  simp only [Dec.afterReset]

theorem Enc.afterReset_inv (k : Nat) : (Enc.afterReset k).Inv :=
  Enc.inv_of_idle rfl rfl (by rw [Enc.afterReset_cache, Memory.wf_fill]) (Nat.le_refl _)

theorem Dec.afterReset_inv (k : Nat) : (Dec.afterReset k).Inv :=
  Dec.inv_of_idle rfl rfl (by rw [Dec.afterReset_cache, Memory.wf_fill]) (Nat.le_refl _) rfl

/-- Settles O51: both engines are idle, with empty caches and all counts 0. -/
theorem resetMeetsInvariant : Obligations.ResetMeetsInvariant where
  enc := Enc.inv_of_idle rfl rfl reset_memory_wf.1 (Nat.le_refl _)
  dec := Dec.inv_of_idle rfl rfl reset_memory_wf.2 (Nat.le_refl _) rfl
  outpos := Nat.le_refl _
  count := Nat.le_refl _

theorem event_keeps_inv {ev : Event} {s t : State} (h : s.Inv) (ht : event ev s = .next t) : t.Inv := by
  cases ev with
  | encStart => exact encStart_keeps_inv h ht
  | encPixel w => exact encPixel_keeps_inv h ht
  | encIoErr => exact encIoErr_keeps_inv h ht
  | encWrite r v => exact encWrite_keeps_inv h ht
  | decStart => exact decStart_keeps_inv h ht
  | decByte b => exact decByte_keeps_inv h ht
  | decEos => exact decEos_keeps_inv h ht
  | decIoErr => exact decIoErr_keeps_inv h ht
  | decWrite r v => exact decWrite_keeps_inv h ht
  | reset =>
    cases ht
    exact ⟨Enc.afterReset_inv _, Dec.afterReset_inv _, Nat.zero_le _, Nat.zero_le _⟩

/-- The first of a sequence of events that has a next state has one too. -/
theorem events_cons_next {ev : Event} {evs : List Event} {s t : State} (h : events (ev :: evs) s = .next t) :
    ∃ u, event ev s = .next u ∧ events evs u = .next t := by
  rw [events] at h
  split at h
  · exact ⟨_, ‹_›, h⟩
  · cases h
  · cases h

theorem events_keeps_inv (evs : List Event) {s t : State} (h : s.Inv) (ht : events evs s = .next t) : t.Inv := by
  induction evs generalizing s with
  | nil =>
    cases ht
    exact h
  | cons ev evs ih =>
    obtain ⟨u, hu, ht⟩ := events_cons_next ht
    exact ih (event_keeps_inv h hu) ht

/-- Settles O52: a step is events one at a time (O27), and every event keeps the invariant, which does not speak of
what is pending. -/
theorem stepKeepsInvariant : Obligations.StepKeepsInvariant := by
  intro s t h ht
  obtain ⟨n, -, -, hevents⟩ := stepIsEventsInOrder s t ht
  have hpending : { s with pending := s.pending.drop n }.Inv := ⟨h.enc, h.dec, h.outpos, h.count⟩
  exact events_keeps_inv _ hpending hevents

/-- Settles O49: the fields of the three reset definitions. -/
theorem resetStateValues : Obligations.ResetStateValues := by
  unfold Obligations.ResetStateValues
  decide

/-- Settles O50: a reset event's fields are those of the reset definitions, its caches filled slot by slot. -/
theorem resetEventAbortsBothEngines : Obligations.ResetEventAbortsBothEngines := by
  intro s
  have henc := (Enc.afterReset_inv s.resets).cacheWf
  have hdec := (Dec.afterReset_inv s.resets).cacheWf
  exact ⟨_, rfl, rfl, rfl, rfl, rfl, rfl, rfl, rfl, rfl, rfl, rfl, rfl, rfl, rfl, rfl, rfl, rfl, rfl, rfl, rfl, rfl,
    rfl, rfl, rfl, rfl, rfl, henc, hdec⟩

end Sys2Proof.Machine
end

section
/-! PROOFS. Where events have no effect, are refused or leave an error standing (10_state.md R29, R44; 41_encoder.md
R140, R157; 42_decoder.md R184; 60_exceptions.md R216, R226). -/

namespace Sys2Proof.Machine

theorem Dec.accepts_eq_false_iff {d : Dec} : d.accepts = false ↔ d.st = .idle ∨ d.st = .ended ∨ d.st = .error := by
  cases h : d.st <;> simp [Dec.accepts, h]

/-- A DEC step that changes nothing has the position it needs. -/
theorem putAll_unchanged (s : State) : putAll s (s.dec, []) = .next s := by
  have hroom : s.dec.inpos.toNat + 0 < posMax := s.dec.inpos.isLt
  rw [putAll_of_room (by simp) hroom]
  simp

/-- Settles O23: an op is its bytes' effect, and none of them is accepted. -/
theorem opsNotAcceptedOutsideDecode : Obligations.OpsNotAcceptedOutsideDecode := by
  intro i s hi hst
  rw [exec_eq_putAll s hi, Dec.bytes_of_not_accepts _ (Dec.accepts_eq_false_iff.2 hst), putAll_unchanged]

/-- Settles O34, by the three states. -/
theorem decoderIgnoresInputOutsideDecode : Obligations.DecoderIgnoresInputOutsideDecode := by
  intro s b hst
  constructor
  · rw [event, decByte, Dec.byte_of_not_accepts b (Dec.accepts_eq_false_iff.2 hst), putAll_unchanged]
  · rcases hst with h | h | h <;> simp only [event, decEos, h]

/-- Settles O58: where a byte is accepted it takes one position, and there is none left. -/
theorem positionPastMaximumRefused : Obligations.PositionPastMaximumRefused := by
  intro s b hst hfull
  have hpos := Dec.byte_inpos s.dec b
  rw [if_pos (Dec.accepts_iff.2 hst)] at hpos
  exact putAll_of_full hpos (by decide) hfull.ge

/-- Settles O35, one refusal each: ENC_START's two in their order, and ENC_PIXEL's. -/
theorem encoderHostObligationsRefused : Obligations.EncoderHostObligationsRefused := by
  refine ⟨fun s hst => if_pos hst, fun s hst htags => ?_, fun s w hst => if_neg hst⟩
  have hillegal : (legalChannels s.enc.cfgChannels && legalColorspace s.enc.cfgColorspace) = false := by
    rw [← Bool.not_eq_true, Bool.and_eq_true, legalChannels_iff, legalColorspace_iff]
    exact htags
  rw [event, encStart, if_neg hst, if_pos hillegal]

/-- An encoder in ERROR stays there with its code under its own events but a START (R216). -/
theorem event_forEnc_keeps_error {ev : Event} {s t : State} (hev : ev.forEnc = true) (h : event ev s = .next t)
    (hst : s.enc.st = .error) (hstart : ev.startsEnc = false) : t.enc.st = .error ∧ t.enc.err = s.enc.err := by
  cases ev with
  | encStart => cases hstart
  | encPixel w =>
    have hbody := (encPixel_next h).1
    simp [hst] at hbody
  | encIoErr =>
    rcases encIoErr_next h with ⟨hopen, -⟩ | ⟨-, -, rfl⟩
    · simp [hst] at hopen
    · exact ⟨hst, rfl⟩
  | encWrite r v =>
    rcases encWrite_next h with ⟨rfl, hv, -⟩ | ⟨w, ht, c, k, n, rfl⟩
    · exact absurd hv (ne_true_of_eq_false hstart)
    · exact ⟨hst, rfl⟩
  | decStart | decByte | decEos | decIoErr | decWrite | reset => cases hev

/-- A decoder in ERROR is unchanged by its own events but a START (R216). -/
theorem event_forDec_keeps_error {ev : Event} {s t : State} (hev : ev.forDec = true) (h : event ev s = .next t)
    (hst : s.dec.st = .error) (hstart : ev.startsDec = false) : t.dec = s.dec := by
  have hacc : s.dec.accepts = false := Dec.accepts_eq_false_iff.2 (.inr (.inr hst))
  cases ev with
  | decStart => cases hstart
  | decByte b =>
    rw [(decByte_next h).2, Dec.byte_of_not_accepts b hacc]
  | decEos =>
    rcases decEos_next h with ⟨x, -, hx, -⟩ | ⟨-, rfl⟩
    · simp [hacc] at hx
    · rfl
  | decIoErr =>
    rcases decIoErr_next h with ⟨hx, -⟩ | ⟨-, rfl⟩
    · simp [hacc] at hx
    · rfl
  | decWrite r v =>
    rcases decWrite_next h with ⟨rfl, hv, -⟩ | rfl
    · exact absurd hv (ne_true_of_eq_false hstart)
    · rfl
  | encStart | encPixel | encIoErr | encWrite | reset => cases hev

/-- Settles O55: an engine's own events leave its error standing, and the other engine's do not touch it. -/
theorem errorIsLeftOnlyByStartOrReset : Obligations.ErrorIsLeftOnlyByStartOrReset := by
  intro ev s t h hreset
  rcases ev.cases_for with hev | hev | hev
  · obtain ⟨hdec, -⟩ := (enginesAreIsolated ev s t h).1 hev
    exact ⟨event_forEnc_keeps_error hev h, fun _ _ => hdec⟩
  · obtain ⟨henc, -⟩ := (enginesAreIsolated ev s t h).2 hev
    exact ⟨fun hst _ => ⟨by rw [henc, hst], by rw [henc]⟩, event_forDec_keeps_error hev h⟩
  · exact absurd hev hreset

end Sys2Proof.Machine
end

section
/-! PROOFS. The cache as its slots, the port lanes and the interface registers (10_state.md R25 to R43, R45;
20_memory.md R62 to R66). -/

namespace Sys2Proof.Machine

theorem Memory.wfFrom_cons_iff {lo k : Nat} {p : Pixel} {m : Memory} :
    Memory.wfFrom lo ((k, p) :: m) = true ↔ lo ≤ k ∧ k < 64 ∧ p ≠ Pixel.zero ∧ Memory.wfFrom (k + 1) m = true := by
  simp only [Memory.wfFrom, Bool.and_eq_true, decide_eq_true_eq, and_assoc]

theorem Memory.lookup_cons_same (k : Nat) (p : Pixel) (m : Memory) : Memory.lookup ((k, p) :: m) k = p := if_pos rfl

theorem Memory.lookup_cons_other {k a : Nat} (p : Pixel) (m : Memory) (h : k ≠ a) :
    Memory.lookup ((k, p) :: m) a = Memory.lookup m a := if_neg h

/-- The first slot listed by one cache is not below the first listed by another that reads the same there: it would
read `ZERO` in the other. -/
theorem Memory.first_slot_le {lo k l : Nat} {p q : Pixel} {m n : Memory} (hm : Memory.wfFrom lo ((k, p) :: m) = true)
    (hn : Memory.wfFrom lo ((l, q) :: n) = true)
    (h : Memory.lookup ((k, p) :: m) k = Memory.lookup ((l, q) :: n) k) : l ≤ k := by
  obtain ⟨-, -, hp, -⟩ := Memory.wfFrom_cons_iff.1 hm
  obtain ⟨-, -, -, hn⟩ := Memory.wfFrom_cons_iff.1 hn
  by_contra hlt
  rw [Memory.lookup_cons_same, Memory.lookup_cons_other q n (by omega), Memory.lookup_below hn (by omega)] at h
  exact hp h

/-- A cache that lists a slot does not read as the empty one. -/
theorem Memory.exists_lookup_ne_zero {lo k : Nat} {p : Pixel} {m : Memory}
    (hm : Memory.wfFrom lo ((k, p) :: m) = true) : ∃ a, a < 64 ∧ Memory.lookup ((k, p) :: m) a ≠ Pixel.zero := by
  obtain ⟨-, hk, hp, -⟩ := Memory.wfFrom_cons_iff.1 hm
  exact ⟨k, hk, by rwa [Memory.lookup_cons_same]⟩

/-- Two caches in canonical form that hold the same in every slot are the same list. -/
theorem Memory.eq_of_lookup_eq {m n : Memory} {lo : Nat} (hm : Memory.wfFrom lo m = true)
    (hn : Memory.wfFrom lo n = true) (h : ∀ a, a < 64 → Memory.lookup m a = Memory.lookup n a) : m = n := by
  induction m generalizing lo n with
  | nil =>
    cases n with
    | nil => rfl
    | cons c n =>
      obtain ⟨a, ha, hne⟩ := Memory.exists_lookup_ne_zero hn
      exact absurd (h a ha).symm hne
  | cons c m ih =>
    cases n with
    | nil =>
      obtain ⟨a, ha, hne⟩ := Memory.exists_lookup_ne_zero hm
      exact absurd (h a ha) hne
    | cons c' n =>
      obtain ⟨k, p⟩ := c
      obtain ⟨l, q⟩ := c'
      obtain ⟨-, hk, -, hm'⟩ := Memory.wfFrom_cons_iff.1 hm
      obtain ⟨-, hl, -, hn'⟩ := Memory.wfFrom_cons_iff.1 hn
      obtain rfl : k = l :=
        le_antisymm (Memory.first_slot_le hn hm (h l hl).symm) (Memory.first_slot_le hm hn (h k hk))
      have hpq := h k hk
      rw [Memory.lookup_cons_same, Memory.lookup_cons_same] at hpq
      have htail : ∀ a, a < 64 → Memory.lookup m a = Memory.lookup n a := by
        intro a ha
        by_cases hak : a < k + 1
        · rw [Memory.lookup_below hm' hak, Memory.lookup_below hn' hak]
        · have := h a ha
          rwa [Memory.lookup_cons_other p m (by omega), Memory.lookup_cons_other q n (by omega)] at this
      rw [hpq, ih hm' hn' htail]

/-- Settles O7: the rules of a write, and that the canonical form lists each content once. -/
theorem cacheReadsLastWriteAndIsItsSlots : Obligations.CacheReadsLastWriteAndIsItsSlots := by
  refine ⟨fun m i j p hm => ⟨Memory.wf_write i p hm, Memory.read_write i j p hm⟩, fun m n hm hn h => ?_⟩
  exact Memory.eq_of_lookup_eq hm hn fun a ha => by simpa [Memory.read, Nat.mod_eq_of_lt ha] using h (BitVec.ofNat 6 a)

/-- Settles O6: the four rows by the table, the round trips for every ordering. -/
theorem lanesCarryPixels : Obligations.LanesCarryPixels :=
  ⟨fun _ => ⟨rfl, rfl, rfl, rfl⟩, unlane_lane, lane_unlane⟩

/-- A STATUS word as a number: the state below, the error code four bits up (R31, R38). -/
theorem statusWord_toNat : ∀ (st : BitVec 3) (err : BitVec 4),
    ((statusWord st err).setWidth 64).toNat = st.toNat + 16 * err.toNat := by decide

/-- Settles O46: the word's two fields, and the number of each state and code. -/
theorem statusRegistersShowStateAndError : Obligations.StatusRegistersShowStateAndError := by
  constructor
  · intro e
    rw [encRead, statusWord_toNat]
    congr 1
    · cases e.st <;> rfl
    · cases e.err <;> rfl
  · intro d
    rw [decRead, statusWord_toNat]
    congr 1
    · cases d.st <;> rfl
    · cases d.err <;> rfl

/-- Settles O47: a configuration write is a record update, and a read gives the field it wrote. -/
theorem configurationRegistersStore : Obligations.ConfigurationRegistersStore := by
  intro s v
  refine ⟨⟨_, rfl, ?_, rfl⟩, ⟨_, rfl, ?_, rfl⟩, ⟨_, rfl, ?_, rfl⟩, ⟨_, rfl, ?_, rfl⟩, ⟨_, rfl, rfl, rfl⟩⟩ <;>
    simp only [encRead, BitVec.toNat_setWidth] <;> omega

/-- START is bit 0 (R32, R39). -/
theorem getLsbD_zero_iff (v : BitVec 64) : v.getLsbD 0 = true ↔ v.toNat % 2 = 1 := by
  rw [BitVec.getLsbD, Nat.testBit_zero, decide_eq_true_iff]

/-- Settles O48, by the registers' rows of the two write functions. -/
theorem controlAndReadOnlyRegisters : Obligations.ControlAndReadOnlyRegisters := by
  intro s v
  refine ⟨?_, ?_, rfl, rfl, ?_, ?_⟩
  · simp only [event, encWrite, getLsbD_zero_iff]
  · simp only [event, decWrite, getLsbD_zero_iff]
  · rintro r (rfl | rfl | rfl) <;> rfl
  · intro r hr
    cases r with
    | ctrl => exact absurd rfl hr
    | status | width | height | channels | colorspace | target | count | inpos => rfl

end Sys2Proof.Machine
end

section
/-! PROOFS. A decoder that agrees with the encoder follows it: what each op the encoder emits does at the decoder
(20_memory.md R67; 41_encoder.md R143 to R153; 42_decoder.md R173 to R183). -/

namespace Sys2Proof.Machine

theorem Dec.bytes_append (as bs : List Byte) (d : Dec) :
    Dec.bytes (as ++ bs) d =
      ((Dec.bytes bs (Dec.bytes as d).1).1, (Dec.bytes as d).2 ++ (Dec.bytes bs (Dec.bytes as d).1).2) := by
  induction as generalizing d with
  | nil => rfl
  | cons a as ih => simp only [List.cons_append, Dec.bytes_cons, ih, List.append_assoc]

/-- The bytes `bs` bring DEC from `d` to `d'`, at an op's start again, all of them accepted, and put `ps`. -/
structure Dec.Decodes (d : Dec) (bs : List Byte) (d' : Dec) (ps : List Pixel) : Prop where
  bytes : Dec.bytes bs d = (d', ps)
  start : d'.atOpStart = true
  inpos : d'.inpos = d.inpos + BitVec.ofNat 64 bs.length

theorem Dec.Decodes.refl {d : Dec} (h : d.atOpStart = true) : d.Decodes [] d [] := ⟨rfl, h, by simp⟩

theorem Dec.Decodes.trans {d d' d'' : Dec} {as bs : List Byte} {ps qs : List Pixel} (h : d.Decodes as d' ps)
    (h' : d'.Decodes bs d'' qs) : d.Decodes (as ++ bs) d'' (ps ++ qs) where
  bytes := by simp [Dec.bytes_append, h.bytes, h'.bytes]
  start := h'.start
  inpos := by rw [h'.inpos, h.inpos, List.length_append, BitVec.ofNat_add, BitVec.add_assoc]

/-- No op writes the target (R126). -/
theorem Dec.Decodes.target {d d' : Dec} {bs : List Byte} {ps : List Pixel} (h : d.Decodes bs d' ps)
    (hs : d.atOpStart = true) : d'.target = d.target := by
  have hst := (Dec.atOpStart_iff.1 hs).1
  have hkept := (Dec.bytes_headerKept bs (d := d) (by simp [hst])).1
  rw [h.bytes] at hkept
  obtain ⟨-, -, -, -, -, -, htarget⟩ := hkept
  exact htarget

section
variable {d : Dec} (hs : d.atOpStart = true)
include hs

/-- RUN within the target (R176). -/
theorem Dec.decodes_run {n : BitVec 6} (hn : n.toNat ≤ 61) (hfit : d.count.toNat + (n.toNat + 1) ≤ d.target.toNat) :
    d.Decodes (encode (.run n))
      { d.accept 1 with count := d.count + BitVec.ofNat 64 (n.toNat + 1) } (List.replicate (n.toNat + 1) d.prev) where
  bytes := (Dec.bytes_run hs hn).trans (Dec.runOp_fits (d := d.accept 1) hfit)
  start := hs
  inpos := rfl

/-- The byte of a pending run of `n` repeats, if any, puts them (R144, R176). -/
theorem Dec.decodes_runBytes {n : BitVec 6} (hn : n.toNat ≤ 61) (hfit : d.count.toNat + n.toNat ≤ d.target.toNat) :
    d.Decodes (runBytes n)
      { d.accept (runBytes n).length with count := d.count + BitVec.ofNat 64 n.toNat }
      (List.replicate n.toNat d.prev) := by
  by_cases h0 : n = 0
  · subst h0
    have hd : { d.accept 0 with count := d.count + BitVec.ofNat 64 0 } = d := by simp [Dec.accept]
    exact hd.symm ▸ Dec.Decodes.refl hs
  · have hpos : n.toNat ≠ 0 := fun hz => h0 (BitVec.eq_of_toNat_eq hz)
    have hsub : (n - 1).toNat + 1 = n.toNat := by
      have h1 : (1 : BitVec 6).toNat = 1 := rfl
      rw [BitVec.toNat_sub, h1]
      omega
    have hrun := Dec.decodes_run hs (n := n - 1) (by omega) (by omega)
    rw [hsub] at hrun
    rw [runBytes, if_neg h0]
    exact hrun

/-- INDEX below the target (R177). -/
theorem Dec.decodes_index (hc : d.count ≠ d.target) (i : BitVec 6) :
    d.Decodes (encode (.index i)) ((d.accept 1).deliver (d.cache.read i) false).1 [d.cache.read i] where
  bytes := (Dec.bytes_index hs i).trans (Dec.indexOp_below (d := d.accept 1) hc i)
  start := hs
  inpos := rfl

/-- Below the target RGB, RGBA, DIFF and LUMA put the pixel they store and leave it in its slot (R63, R173, R175, R180,
R182). -/
theorem Dec.decodes_stored (hc : d.count ≠ d.target) {i : Instr} {p : Pixel} (hi : storedPixel d i = some p) :
    ∃ d', d.Decodes (encode i) d' [p] ∧ d'.prev = p ∧ d'.cache = d.cache.write (pixelHash p) p ∧
      d'.count = d.count + 1 := by
  cases i with
  | rgb r g b =>
    cases hi
    exact ⟨_, ⟨(Dec.bytes_rgb hs r g b).trans (if_neg hc), hs, rfl⟩, rfl, rfl, rfl⟩
  | rgba r g b a =>
    cases hi
    exact ⟨_, ⟨(Dec.bytes_rgba hs r g b a).trans (if_neg hc), hs, rfl⟩, rfl, rfl, rfl⟩
  | diff rr gg bb =>
    cases hi
    have hbelow := Dec.orOverflow_below (d := d.accept 1) hc ((d.accept 1).deliver (diffPixel d.prev rr gg bb) true)
    exact ⟨_, ⟨(Dec.bytes_diff hs rr gg bb).trans hbelow, hs, rfl⟩, rfl, rfl, rfl⟩
  | luma gg xx yy =>
    cases hi
    exact ⟨_, ⟨(Dec.bytes_luma hs gg xx yy).trans (if_neg hc), hs, rfl⟩, rfl, rfl, rfl⟩
  | run n | index k | endMarker b1 b2 b3 b4 b5 b6 b7 => cases hi

/-- The end marker at the target (R178, R183). -/
theorem Dec.bytes_theEnd (hc : d.count = d.target) :
    Dec.bytes (encode .theEnd) d = ({ d.accept 8 with op := .none, opn := 7, st := .ended }, []) := by
  have hst := (Dec.atOpStart_iff.1 hs).1
  rw [Instr.theEnd, Dec.bytes_endMarker hs (decide_eq_true hc)]
  simp [Dec.endOp, Dec.endBytes, Dec.endByte, Dec.endStart, Dec.accept, endExpected, hst, BitVec.add_assoc]

end

/-- The op the encoder takes for a pixel that missed stores that pixel at a decoder with its previous pixel (R67, R101,
R147 to R150). -/
theorem storedPixel_missOp (d : Dec) (p : Pixel) : storedPixel d (missOp d.prev p) = some p := by
  unfold missOp
  split
  · rename_i ha
    split
    · rename_i hdiff
      simp only [Bool.and_eq_true, within_iff] at hdiff
      obtain ⟨⟨⟨hr, hr'⟩, hg, hg'⟩, hb, hb'⟩ := hdiff
      rw [storedPixel, diffPixel, unbiased_biased (by omega) (by omega), unbiased_biased (by omega) (by omega),
        unbiased_biased (by omega) (by omega), shiftBy_sdiff8, shiftBy_sdiff8, shiftBy_sdiff8, ← ha]
    · split
      · rename_i hluma
        simp only [Bool.and_eq_true, within_iff] at hluma
        obtain ⟨⟨⟨hg, hg'⟩, hr, hr'⟩, hb, hb'⟩ := hluma
        rw [storedPixel, lumaPixel, unbiased_biased (by omega) (by omega), unbiased_biased (by omega) (by omega),
          unbiased_biased (by omega) (by omega), shiftBy_relDelta, shiftBy_relDelta, shiftBy_sdiff8, ← ha]
      · rw [storedPixel, ← ha]
  · rfl

/-- The encoder's pending run, taken by a decoder that agrees with it, leaves the counts equal (R67, R144). -/
theorem Agree.flush {e : Enc} {d : Dec} (h : Agree e d) (hs : d.atOpStart = true) (hrun : e.run.toNat ≤ 61)
    (hle : e.count.toNat ≤ e.target.toNat) :
    ∃ d', d.Decodes (runBytes e.run) d' (List.replicate e.run.toNat e.prev) ∧ d'.prev = e.prev ∧ d'.cache = e.cache ∧
      d'.count = e.count ∧ d'.target = e.target := by
  obtain ⟨hprev, hcache, hcount, htarget⟩ := h
  have hfit : d.count.toNat + e.run.toNat ≤ d.target.toNat := by rw [htarget]; omega
  have hflush := Dec.decodes_runBytes hs hrun hfit
  rw [hprev] at hflush
  exact ⟨_, hflush, hprev, hcache, BitVec.eq_of_toNat_eq ((count_add_toNat hfit).trans hcount), htarget⟩

/-- The agreement after a pixel that ends the run: the decoder has put it too (R67). -/
theorem Agree.of_flushed {e : Enc} {d : Dec} (hprev : d.prev = e.prev) (hcache : d.cache = e.cache)
    (hcount : d.count = e.count) (htarget : d.target = e.target) (hrun : e.run = 0) : Agree e d :=
  ⟨hprev, hcache, by simp [hcount, hrun], htarget⟩

/-- R67 for one pixel: its ops, taken by a decoder that agrees, keep the agreement, and what is put with the repeats
still pending is one pixel more. -/
theorem Agree.pixel {e : Enc} {d : Dec} (h : Agree e d) (hs : d.atOpStart = true) (hrun : e.run.toNat ≤ 61)
    (hlt : e.count.toNat < e.target.toNat) (p : Pixel) :
    ∃ d' ps, d.Decodes (opBytes (e.pixelOps p).2) d' ps ∧ Agree (e.afterPixel p) d' ∧
      ps ++ List.replicate (e.afterPixel p).run.toNat p = List.replicate e.run.toNat e.prev ++ [p] := by
  have hsucc := count_succ_toNat hlt
  by_cases hp : p = e.prev
  · obtain ⟨hprev, hcache, hcount, htarget⟩ := h
    rw [Enc.afterPixel, Enc.pixelOps_repeat hp, hp]
    by_cases hfull : e.run.toNat = 61
    · have hfit : d.count.toNat + ((61 : BitVec 6).toNat + 1) ≤ d.target.toNat := by
        have h61 : (61 : BitVec 6).toNat = 61 := rfl
        rw [htarget, h61]
        omega
      rw [Enc.runStep_full hfull, opBytes_one]
      refine ⟨_, _, Dec.decodes_run hs (by decide) hfit, ⟨hprev, hcache, ?_, htarget⟩, ?_⟩
      · refine (count_add_toNat hfit).trans ?_
        rw [hsucc, ← hcount, hfull]
        rfl
      · rw [hfull, hprev, ← List.replicate_succ']
        rfl
    · have hmore : (e.run + 1).toNat = e.run.toNat + 1 := by
        have h1 : (1 : BitVec 6).toNat = 1 := rfl
        rw [BitVec.toNat_add, h1]
        omega
      rw [Enc.runStep_more hfull]
      refine ⟨d, [], Dec.Decodes.refl hs, ⟨hprev, hcache, ?_, htarget⟩, ?_⟩
      · simp only [hmore, hsucc]
        omega
      · simp only [hmore, List.nil_append, List.replicate_succ']
  · obtain ⟨f, hflush, hprev, hcache, hcount, htarget⟩ := h.flush hs hrun hlt.le
    have hbelow : f.count ≠ f.target := by
      rw [hcount, htarget]
      exact fun hx => absurd (congrArg BitVec.toNat hx) (by omega)
    rw [Enc.afterPixel]
    by_cases hc : e.cache.read (pixelHash p) = p
    · have hindex := Dec.decodes_index hflush.start hbelow (pixelHash p)
      rw [hcache, hc] at hindex
      rw [Enc.pixelOps_hit hp hc, opBytes_append, opBytes_runFlush, opBytes_one]
      exact ⟨_, _, hflush.trans hindex, Agree.of_flushed rfl hcache (congrArg (· + 1) hcount) htarget rfl, by simp⟩
    · obtain ⟨g, hmiss, hprev', hcache', hcount'⟩ :=
        Dec.decodes_stored hflush.start hbelow (storedPixel_missOp f p)
      rw [hprev] at hmiss
      rw [Enc.pixelOps_miss hp hc, opBytes_append, opBytes_runFlush, opBytes_one]
      exact ⟨g, _, hflush.trans hmiss,
        Agree.of_flushed hprev' (by rw [hcache', hcache]) (by rw [hcount', hcount])
          ((hmiss.target hflush.start).trans htarget) rfl, by simp⟩

end Sys2Proof.Machine
end

section
/-! PROOFS. An image encoded and decoded (10_state.md R29; 40_header.md R120 to R126; 41_encoder.md R141 to R158). -/

namespace Sys2Proof.Machine

/-! ### The header -/

theorem Dec.byte_of_header {d : Dec} (h : d.st = .header) (b : Byte) : d.byte b = (d.headerByte b, []) := by
  simp [Dec.byte, h]

/-- A header byte at an offset without a check, before others. -/
theorem Dec.bytes_header_unchecked {d : Dec} (b : Byte) (bs : List Byte) (h : d.st = .header)
    (hpos : d.hpos ≠ 3 ∧ d.hpos ≠ 12 ∧ d.hpos ≠ 13) : Dec.bytes (b :: bs) d = Dec.bytes bs (d.storeHeaderByte b) := by
  obtain ⟨h3, h12, h13⟩ := hpos
  rw [Dec.bytes_cons, Dec.byte_of_header (by simp [h]), Dec.headerByte_unchecked b h3 h12 h13, List.nil_append]

/-- The last byte of the magic, with the others before it. -/
theorem Dec.bytes_header_magic {d : Dec} (bs : List Byte) (h : d.st = .header) (hpos : d.hpos = 0) :
    Dec.bytes (magic ++ bs) d =
      Dec.bytes bs
        ((((d.storeHeaderByte 0x71#8).storeHeaderByte 0x6F#8).storeHeaderByte 0x69#8).storeHeaderByte 0x66#8) := by
  rw [magic]
  simp only [List.cons_append, List.nil_append]
  iterate 3 rw [Dec.bytes_header_unchecked _ _ (by simp [h]) (by simp [hpos])]
  rw [Dec.bytes_cons, Dec.byte_of_header (by simp [h]), Dec.headerByte_three _ (by simp [hpos]),
    if_pos (by simp [hpos, magic]), List.nil_append]

/-- The fourteen bytes of a legal header bring DEC from HEADER to BODY with its descriptor (R120 to R126). -/
theorem Dec.bytes_header {d : Dec} (hst : d.st = .header) (hpos : d.hpos = 0) (w ht : BitVec 32) {c k : Byte}
    (hc : legalChannels c = true) (hk : legalColorspace k = true) :
    ∃ buf, Dec.bytes (headerBytes w ht c k) d =
      ({ d with
          hbuf := buf, hpos := 14, inpos := d.inpos + 14, width := w, height := ht, channels := c, colorspace := k,
          target := area w ht, op := .none, opn := 0, st := .body }, []) := by
  refine ⟨(Dec.bytes (headerBytes w ht c k) d).1.hbuf, ?_⟩
  rw [headerBytes, List.append_assoc, List.append_assoc, Dec.bytes_header_magic _ hst hpos]
  simp only [be32Bytes, List.cons_append, List.nil_append]
  iterate 8 rw [Dec.bytes_header_unchecked _ _ (by simp [hst]) (by simp [hpos])]
  rw [Dec.bytes_cons, Dec.byte_of_header (by simp [hst]), Dec.headerByte_twelve _ (by simp [hpos]), if_pos hc,
    Dec.bytes_cons, Dec.byte_of_header (by simp [hst]), Dec.headerByte_thirteen _ (by simp [hpos]), if_pos hk]
  simp [Dec.bytes, Dec.completeHeader, Dec.storeHeaderByte, hpos, be32_be32Bytes, BitVec.add_assoc]

/-! ### The pixels -/

/-- The bytes `bs` bring DEC from `d` to END, all of them accepted, with `ps` put, the image complete, and the cache and
the previous pixel those of the encoder `e`. -/
structure Dec.Finishes (d : Dec) (bs : List Byte) (e : Enc) (ps : List Pixel) : Prop where
  put : (Dec.bytes bs d).2 = ps
  st : (Dec.bytes bs d).1.st = .ended
  inpos : (Dec.bytes bs d).1.inpos = d.inpos + BitVec.ofNat 64 bs.length
  count : (Dec.bytes bs d).1.count = (Dec.bytes bs d).1.target
  cache : (Dec.bytes bs d).1.cache = e.cache
  prev : (Dec.bytes bs d).1.prev = e.prev

/-- Bytes that put `ps` on the way to where the rest finishes. -/
theorem Dec.Finishes.after {d d' : Dec} {as bs : List Byte} {e : Enc} {ps qs : List Pixel}
    (hbytes : Dec.bytes as d = (d', ps)) (hinpos : d'.inpos = d.inpos + BitVec.ofNat 64 as.length)
    (h : d'.Finishes bs e qs) : d.Finishes (as ++ bs) e (ps ++ qs) := by
  have happend : Dec.bytes (as ++ bs) d = ((Dec.bytes bs d').1, ps ++ (Dec.bytes bs d').2) := by
    rw [Dec.bytes_append, hbytes]
  constructor <;> rw [happend]
  · rw [h.put]
  · exact h.st
  · rw [h.inpos, hinpos, List.length_append, BitVec.ofNat_add, BitVec.add_assoc]
  · exact h.count
  · exact h.cache
  · exact h.prev

/-- The end marker at the target finishes what the decoder has agreed on (R153, R183). -/
theorem Dec.finishes_theEnd {d : Dec} {e : Enc} (hs : d.atOpStart = true) (hcount : d.count = d.target)
    (hcache : d.cache = e.cache) (hprev : d.prev = e.prev) : d.Finishes (encode .theEnd) e [] := by
  have hend := Dec.bytes_theEnd hs hcount
  constructor <;> rw [hend]
  · rfl
  · exact hcount
  · exact hcache
  · exact hprev

/-- With the last pixel counted, the pending run and the end marker finish the image (R153). -/
theorem Agree.finish {e e' : Enc} {d : Dec} (h : Agree e d) (hs : d.atOpStart = true) (hrun : e.run.toNat ≤ 61)
    (hcount : e.count = e.target) (hcache : e'.cache = e.cache) (hprev : e'.prev = e.prev) :
    d.Finishes (runBytes e.run ++ encode .theEnd) e' (List.replicate e.run.toNat e.prev) := by
  obtain ⟨f, hflush, hfprev, hfcache, hfcount, hftarget⟩ := h.flush hs hrun (by rw [hcount])
  have hend := Dec.finishes_theEnd (e := e') hflush.start (by rw [hfcount, hftarget, hcount]) (by rw [hfcache, hcache])
    (by rw [hfprev, hprev])
  simpa using hend.after hflush.bytes hflush.inpos

/-- ENC_PIXEL in BODY of the port word of `p` (R142). -/
theorem event_encPixel_lane {s : State} (hst : s.enc.st = .body) (p : Pixel) :
    event (.encPixel (lane Config.pixelOrderEnc p)) s = emit s (s.enc.pixel p).1 (opBytes (s.enc.pixel p).2) := by
  rw [event, encPixel, if_pos hst, unlane_lane]

section
variable (e : Enc) (p : Pixel)

@[simp] theorem Enc.afterPixel_st : (e.afterPixel p).st = e.st := Enc.pixelOps_st e p

@[simp] theorem Enc.afterPixel_prev : (e.afterPixel p).prev = p := Enc.pixelOps_prev e p

@[simp] theorem Enc.afterPixel_run : (e.afterPixel p).run = (e.pixelOps p).1.run := rfl

@[simp] theorem Enc.afterPixel_target : (e.afterPixel p).target = e.target := Enc.pixelOps_target e p

end

/-- The machine after a pixel that is not the last (R142, R152). -/
def State.afterPixel (s : State) (p : Pixel) : State :=
  { s with
    enc := { s.enc.afterPixel p with outpos := s.enc.outpos + BitVec.ofNat 64 (opBytes (s.enc.pixelOps p).2).length }
    out := s.out ++ opBytes (s.enc.pixelOps p).2 }

/-- A pixel that is not the last emits its ops (R152). -/
theorem event_encPixel_more {s : State} (hst : s.enc.st = .body) (p : Pixel) (h : s.enc.count + 1 ≠ s.enc.target)
    (hroom : s.enc.outpos.toNat + 6 < posMax) :
    event (.encPixel (lane Config.pixelOrderEnc p)) s = .next (s.afterPixel p) := by
  have hlen := Enc.pixelOps_length_le s.enc p
  rw [event_encPixel_lane hst, Enc.pixel_more p h, emit_of_room (by simp only [Enc.pixelOps_outpos]; omega),
    Enc.pixelOps_outpos]
  rfl

/-- The bytes of the last pixel's step: its ops, the run still pending and the end marker (R153). -/
def Enc.lastBytes (e : Enc) (p : Pixel) : List Byte :=
  opBytes (e.pixelOps p).2 ++ (runBytes (e.afterPixel p).run ++ encode .theEnd)

theorem Enc.lastBytes_length_le (e : Enc) (p : Pixel) : (e.lastBytes p).length ≤ 14 := by
  have hlen := Enc.pixelOps_length_le e p
  have hend : (encode .theEnd).length = 8 := rfl
  rw [Enc.lastBytes, List.length_append, List.length_append, hend, Enc.afterPixel_run]
  omega

/-- The encoder after the last pixel (R153). -/
def Enc.finished (e : Enc) (p : Pixel) : Enc :=
  { e.afterPixel p with run := 0, st := .done, outpos := e.outpos + BitVec.ofNat 64 (e.lastBytes p).length }

/-- The last pixel completes the image in its own step (R153). -/
theorem event_encPixel_last {s : State} (hst : s.enc.st = .body) (p : Pixel) (h : s.enc.count + 1 = s.enc.target)
    (hroom : s.enc.outpos.toNat + 14 < posMax) :
    event (.encPixel (lane Config.pixelOrderEnc p)) s =
      .next { s with enc := s.enc.finished p, out := s.out ++ s.enc.lastBytes p } := by
  have hle := Enc.lastBytes_length_le s.enc p
  obtain ⟨hfst, hbytes⟩ := Enc.pixel_last p h
  have hlast : opBytes (s.enc.pixel p).2 = s.enc.lastBytes p := by
    rw [hbytes, List.append_assoc]
    rfl
  rw [event_encPixel_lane hst, hfst, hlast, emit_of_room (by simp only [Enc.pixelOps_outpos]; omega),
    Enc.pixelOps_outpos]
  rfl

/-- The rest of an image encoded, and its bytes taken by a decoder that agrees: what is put are the repeats still
pending and the rest's pixels, and both engines end alike (R67, R152, R153, R158). -/
theorem encPixels_finishes (p : Pixel) (ps : List Pixel) {s : State} {d : Dec} (hagree : Agree s.enc d)
    (hs : d.atOpStart = true) (hst : s.enc.st = .body) (hrun : s.enc.run.toNat ≤ 61)
    (hcount : s.enc.count.toNat + (p :: ps).length = s.enc.target.toNat)
    (hroom : s.enc.outpos.toNat + 6 * (p :: ps).length + 8 < posMax) :
    ∃ e bs, events ((p :: ps).map fun p => .encPixel (lane Config.pixelOrderEnc p)) s =
        .next { s with enc := e, out := s.out ++ bs } ∧
      e.st = .done ∧ e.outpos.toNat = s.enc.outpos.toNat + bs.length ∧
      d.Finishes bs e (List.replicate s.enc.run.toNat s.enc.prev ++ p :: ps) := by
  induction ps generalizing p s d with
  | nil =>
    simp only [List.length_cons, List.length_nil] at hcount hroom
    have hlt : s.enc.count.toNat < s.enc.target.toNat := by omega
    have hlast : s.enc.count + 1 = s.enc.target := BitVec.eq_of_toNat_eq ((count_succ_toNat hlt).trans hcount)
    obtain ⟨d', qs, hdec, hagree', hput⟩ := hagree.pixel hs hrun hlt p
    have hle := Enc.lastBytes_length_le s.enc p
    have hfin := hagree'.finish (e' := s.enc.finished p) hdec.start (Enc.pixelOps_run_le p hrun)
      (hlast.trans (Enc.afterPixel_target _ _).symm) rfl rfl
    rw [Enc.afterPixel_prev] at hfin
    refine ⟨s.enc.finished p, s.enc.lastBytes p, ?_, rfl, outpos_toNat (e := s.enc) (by omega), ?_⟩
    · simp only [List.map_cons, List.map_nil, events, event_encPixel_last hst p hlast (by omega)]
    · exact hput ▸ hfin.after hdec.bytes hdec.inpos
  | cons q ps ih =>
    simp only [List.length_cons] at hcount hroom
    have hlt : s.enc.count.toNat < s.enc.target.toNat := by omega
    have hsucc := count_succ_toNat hlt
    have hmore : s.enc.count + 1 ≠ s.enc.target := fun hx => absurd (congrArg BitVec.toNat hx) (by omega)
    have hlen := Enc.pixelOps_length_le s.enc p
    have hpos : (s.afterPixel p).enc.outpos.toNat = _ := outpos_toNat (e := s.enc) (by omega)
    obtain ⟨d', rs, hdec, hagree', hput⟩ := hagree.pixel hs hrun hlt p
    have hcount' : (s.enc.count + 1).toNat + (q :: ps).length = (s.enc.afterPixel p).target.toNat := by
      rw [List.length_cons, Enc.afterPixel_target]
      omega
    obtain ⟨e, bs, hrest, hdone, hout, hfin⟩ := ih q (s := s.afterPixel p) hagree' hdec.start
      ((Enc.afterPixel_st _ _).trans hst) (Enc.pixelOps_run_le p hrun) hcount' (by rw [hpos, List.length_cons]; omega)
    refine ⟨e, opBytes (s.enc.pixelOps p).2 ++ bs, ?_, hdone, ?_, ?_⟩
    · rw [List.map_cons, events, event_encPixel_more hst p hmore (by omega)]
      simpa [State.afterPixel] using hrest
    · rw [hout, hpos, List.length_append, Nat.add_assoc]
    · have hafter := hfin.after hdec.bytes hdec.inpos
      have hrun' : (s.afterPixel p).enc.run = (s.enc.afterPixel p).run := rfl
      have hprev' : (s.afterPixel p).enc.prev = p := Enc.afterPixel_prev _ _
      rw [hrun', hprev', ← List.append_assoc, hput, List.append_assoc] at hafter
      exact hafter

/-- DEC with the header of the encoder's configuration in, and nothing decoded yet (R126, R170). -/
structure Dec.Opened (d : Dec) (e : Enc) : Prop where
  start : d.atOpStart = true
  inpos : d.inpos = 14
  count : d.count = 0
  target : d.target = area e.cfgWidth e.cfgHeight
  cache : d.cache = Memory.cleared
  prev : d.prev = Pixel.initPrev
  width : d.width = e.cfgWidth
  height : d.height = e.cfgHeight
  channels : d.channels = e.cfgChannels
  colorspace : d.colorspace = e.cfgColorspace

/-- After DEC_START the encoder's header opens the decode (R120, R126, R170). -/
theorem Dec.start_opened (d : Dec) {e : Enc} (hc : legalChannels e.cfgChannels = true)
    (hk : legalColorspace e.cfgColorspace = true) :
    ∃ d', Dec.bytes e.header d.start = (d', []) ∧ d'.Opened e := by
  obtain ⟨buf, hbytes⟩ := Dec.bytes_header (d := d.start) rfl rfl e.cfgWidth e.cfgHeight hc hk
  exact ⟨_, hbytes, rfl, rfl, rfl, rfl, rfl, rfl, rfl, rfl, rfl, rfl⟩

/-- An encode of any image from START, and its bytes behind the header taken by a decoder that has the header in. -/
theorem encode_finishes {s : State} (ps : List Pixel) {d : Dec} (hst : s.enc.st ≠ .body)
    (hc : legalChannels s.enc.cfgChannels = true) (hk : legalColorspace s.enc.cfgColorspace = true)
    (hlen : s.enc.cfgPixlen = area s.enc.cfgWidth s.enc.cfgHeight)
    (hps : ps.length = (area s.enc.cfgWidth s.enc.cfgHeight).toNat) (hroom : 22 + 6 * ps.length < posMax)
    (hd : d.Opened s.enc) :
    ∃ e bs, events (.encStart :: ps.map fun p => .encPixel (lane Config.pixelOrderEnc p)) s =
        .next { s with enc := e, out := s.out ++ (s.enc.header ++ bs) } ∧
      e.st = .done ∧ e.outpos.toNat = (s.enc.header ++ bs).length ∧ d.Finishes bs e ps := by
  have hstart : event .encStart s = _ := encStart_of_legal hst hc hk hlen
  rw [events, hstart]
  cases ps with
  | nil =>
    have h0 : area s.enc.cfgWidth s.enc.cfgHeight = 0 := BitVec.eq_of_toNat_eq hps.symm
    have hbytes : s.enc.startBytes = s.enc.header ++ encode .theEnd := by rw [Enc.startBytes, if_pos h0]
    refine ⟨s.enc.started, encode .theEnd, by rw [hbytes]; rfl, if_pos h0, ?_, ?_⟩
    · rw [Enc.started_outpos_toNat, hbytes]
    · exact Dec.finishes_theEnd hd.start (by rw [hd.count, hd.target, h0]) hd.cache hd.prev
  | cons p ps =>
    have h0 : area s.enc.cfgWidth s.enc.cfgHeight ≠ 0 := fun hz => by simp [hz] at hps
    have hbytes : s.enc.startBytes = s.enc.header := by rw [Enc.startBytes, if_neg h0, List.append_nil]
    have hagree : Agree s.enc.started d := ⟨hd.prev, hd.cache, by rw [hd.count]; rfl, hd.target⟩
    have hout : s.enc.started.outpos.toNat = 14 := by
      rw [Enc.started_outpos_toNat, hbytes, Enc.header_length]
    obtain ⟨e, bs, hev, hdone, hpos, hfin⟩ := encPixels_finishes p ps
      (s := { s with enc := s.enc.started, out := s.out ++ s.enc.startBytes }) hagree hd.start (if_neg h0)
      (Nat.zero_le 61) ((Nat.zero_add _).trans hps) (by simp only [hout]; omega)
    refine ⟨e, bs, ?_, hdone, ?_, hfin⟩
    · rw [← List.append_assoc, ← hbytes]
      exact hev
    · rw [hpos, hout, List.length_append, Enc.header_length]

/-- DEC_START outside HEADER and BODY (R170). -/
theorem decStart_of_not_busy {s : State} (h : s.dec.st ≠ .header) (h' : s.dec.st ≠ .body) :
    decStart s = .next { s with dec := s.dec.start } := by
  unfold decStart
  cases hst : s.dec.st with
  | header => exact absurd hst h
  | body => exact absurd hst h'
  | idle | ended | error => rfl

/-- A started decode takes bytes that all have room in one piece (R29, R44). -/
theorem events_decode {s : State} {bs : List Byte} (hst : s.dec.st ≠ .header) (hst' : s.dec.st ≠ .body)
    (hroom : bs.length < posMax) (hinpos : (Dec.bytes bs s.dec.start).1.inpos = BitVec.ofNat 64 bs.length) :
    events (.decStart :: bs.map Event.decByte) s = .next { s with
      dec := (Dec.bytes bs s.dec.start).1
      pout := s.pout ++ (Dec.bytes bs s.dec.start).2.map (lane Config.pixelOrderDec) } := by
  have hstart : event .decStart s = .next { s with dec := s.dec.start } := decStart_of_not_busy hst hst'
  rw [events, hstart]
  simp only [events_decByte]
  rw [offerBytes_eq_putAll _ _ hroom, putAll_of_room (n := bs.length) (by simpa using hinpos) (by simpa using hroom)]

/-- Settles O45: the decoder reads the header and then follows the encoder pixel by pixel, the agreement of R67 kept. -/
theorem decodeUndoesEncodeOfImages : Obligations.DecodeUndoesEncodeOfImages := by
  intro s ps hst hdst hdst' hchan hcolor hlen hpix hroom
  have hc := (legalChannels_iff _).2 hchan
  have hk := (legalColorspace_iff _).2 hcolor
  have harea := area_toNat s.enc.cfgWidth s.enc.cfgHeight
  have hpixlen : s.enc.cfgPixlen = area s.enc.cfgWidth s.enc.cfgHeight := BitVec.eq_of_toNat_eq (by omega)
  obtain ⟨d, hheader, hopen⟩ := Dec.start_opened s.dec hc hk
  obtain ⟨e, bs, henc, hdone, hout, hfin⟩ := encode_finishes ps hst hc hk hpixlen (by omega) hroom hopen
  have hall := hfin.after hheader (by rw [hopen.inpos]; rfl)
  have hkept : d.SameHeader (Dec.bytes (s.enc.header ++ bs) s.dec.start).1 := by
    have hbody := (Dec.atOpStart_iff.1 hopen.start).1
    rw [Dec.bytes_append, hheader]
    exact (Dec.bytes_headerKept bs (by simp [hbody])).1
  obtain ⟨-, -, hwidth, hheight, hchannels, hcolorspace, htarget⟩ := hkept
  have hlt : (s.enc.header ++ bs).length < posMax := hout ▸ e.outpos.isLt
  have hinpos := hall.inpos.trans (BitVec.zero_add _)
  have hput := hall.put
  rw [List.nil_append] at hput
  refine ⟨_, _, s.enc.header ++ bs, henc, hdone, rfl, hout, ⟨rfl, rfl, rfl, rfl⟩, events_decode hdst hdst' hlt hinpos,
    hall.st, hwidth.trans hopen.width, hheight.trans hopen.height, hchannels.trans hopen.channels,
    hcolorspace.trans hopen.colorspace, ?_, ?_, ?_, ?_, hall.cache, hall.prev⟩
  · rw [hall.count, htarget, hopen.target, harea, hlen]
  · rw [hinpos, BitVec.toNat_ofNat]
    exact Nat.mod_eq_of_lt hlt
  · rw [hput]
  · intro horder
    rw [hput, horder]

end Sys2Proof.Machine
end

section
/-! PROOFS. The pixel caches and what keeps them alike: the index, what each op writes, the encoder's pixel step and the
decoder that follows it, the header and the op fetched (20_memory.md R61 to R69, R80; 40_header.md R120 to R126;
41_encoder.md R142 to R155). -/

namespace Sys2Proof.Machine

/-! ### The index -/

/-- The index is the weighted sum of the channels modulo 64 (R61). -/
theorem pixelHash_toNat (p : Pixel) :
    (pixelHash p).toNat = (p.r.toNat * 3 + p.g.toNat * 5 + p.b.toNat * 7 + p.a.toNat * 11) % 64 :=
  BitVec.toNat_ofNat _ 6

/-- The weighted sum in wraparound arithmetic of any width from 6 bits on has the index in its low 6 bits: narrowing
commutes with sums and products (R61). -/
theorem weightedSum_setWidth {n : Nat} (hn : 6 ≤ n) (p : Pixel) :
    (p.r.setWidth n * 3 + p.g.setWidth n * 5 + p.b.setWidth n * 7 + p.a.setWidth n * 11).setWidth 6 = pixelHash p := by
  simp [BitVec.setWidth_add _ _ hn, BitVec.setWidth_mul _ _ hn, pixelHash, BitVec.ofNat_add, BitVec.ofNat_mul,
    BitVec.setWidth_setWidth_of_le _ hn, BitVec.setWidth_ofNat_of_le hn]

/-- The index as a number, from the sum in wraparound arithmetic of any width from 6 bits on (R61). -/
theorem pixelHash_toNat_of_width {n : Nat} (hn : 6 ≤ n) (p : Pixel) : (pixelHash p).toNat =
    (p.r.setWidth n * 3 + p.g.setWidth n * 5 + p.b.setWidth n * 7 + p.a.setWidth n * 11).toNat % 64 := by
  rw [← weightedSum_setWidth hn, BitVec.toNat_setWidth]

/-- Settles O5: a sum wrapped at 8 or at 16 bits keeps its low 6. -/
theorem hashIsWeightedSum : Obligations.HashIsWeightedSum := by
  intro p
  refine ⟨pixelHash_toNat p, ?_, pixelHash_toNat_of_width (by decide) p, rfl, rfl, rfl⟩
  simpa only [BitVec.setWidth_eq] using pixelHash_toNat_of_width (n := 8) (by decide) p

/-! ### What an op does to the decoder's cache -/

@[simp] theorem Dec.runOp_cache (d : Dec) (n : BitVec 6) : (d.runOp n).1.cache = d.cache := by
  unfold Dec.runOp
  split <;> rfl

@[simp] theorem Dec.indexOp_cache (d : Dec) (i : BitVec 6) : (d.indexOp i).1.cache = d.cache := by
  unfold Dec.indexOp
  repeat' split
  all_goals rfl

@[simp] theorem Dec.endByte_cache (d : Dec) (b : Byte) : (d.endByte b).cache = d.cache := by
  unfold Dec.endByte
  repeat' split
  all_goals rfl

@[simp] theorem Dec.endBytes_cache (bs : List Byte) (d : Dec) : (d.endBytes bs).cache = d.cache := by
  induction bs generalizing d with
  | nil => rfl
  | cons b bs ih =>
    rw [Dec.endBytes]
    split
    · rw [ih, Dec.endByte_cache, Dec.accept_cache]
    · rfl

/-- An op behind the overflow check stores its pixel, or nothing where the check fails (R63, R181). -/
theorem cache_of_check {c : Prop} [Decidable c] {m : Memory} {p : Pixel} {failed done : Dec × List Pixel}
    (hfailed : failed.1.cache = m) (hdone : done.1.cache = m.write (pixelHash p) p) :
    (if c then failed else done).1.cache = m ∨
      ∃ q, some p = some q ∧ (if c then failed else done).1.cache = m.write (pixelHash q) q := by
  split
  · exact .inl hfailed
  · exact .inr ⟨p, rfl, hdone⟩

/-- An op leaves the cache alone, or writes the pixel it stores in that pixel's slot (R62, R63); an END row stands at
the target. -/
theorem Dec.bytes_cache {d : Dec} (hs : d.atOpStart = true) {i : Instr} (hi : i.wf = true ∨ i.isEnd = true)
    (hend : i.isEnd = true → d.atTarget = true) :
    (Dec.bytes (encode i) d).1.cache = d.cache ∨
      ∃ p, storedPixel d i = some p ∧ (Dec.bytes (encode i) d).1.cache = d.cache.write (pixelHash p) p := by
  cases i with
  | rgb r g b =>
    rw [Dec.bytes_rgb hs]
    exact cache_of_check rfl rfl
  | rgba r g b a =>
    rw [Dec.bytes_rgba hs]
    exact cache_of_check rfl rfl
  | diff rr gg bb =>
    rw [Dec.bytes_diff hs]
    exact cache_of_check rfl rfl
  | luma gg xx yy =>
    rw [Dec.bytes_luma hs]
    exact cache_of_check rfl rfl
  | run n =>
    rw [Dec.bytes_run hs (by simpa [Instr.wf, Instr.isEnd] using hi)]
    exact .inl (Dec.runOp_cache _ n)
  | index k =>
    rw [Dec.bytes_index hs]
    exact .inl (Dec.indexOp_cache _ k)
  | endMarker b1 b2 b3 b4 b5 b6 b7 =>
    rw [Dec.bytes_endMarker hs (hend rfl)]
    exact .inl (Dec.endBytes_cache _ _)

/-- Settles O20: a write to the stored pixel's slot leaves the others. -/
theorem opsChangeOnlyTheirSlot : Obligations.OpsChangeOnlyTheirSlot := by
  intro i s t hs hend h k hk
  rw [exec_next h]
  rcases Dec.bytes_cache hs (exec_next_exists h) hend with hkept | ⟨p, hp, hwrite⟩
  · rw [hkept]
  · rw [hwrite]
    exact Memory.read_write_other _ p (hk p hp)

/-! ### The agreement of the engines -/

/-- The op of a pixel that missed exists (R147 to R150). -/
theorem missOp_wf (q p : Pixel) : (missOp q p).wf = true := by
  unfold missOp
  repeat' split
  all_goals rfl

/-- Settles O24: the deltas of DIFF and LUMA lie in their fields' ranges, and the decoder adds them back. -/
theorem missOpMakesItsPixel : Obligations.MissOpMakesItsPixel := by
  intro q p d hq
  subst hq
  exact ⟨missOp_wf _ p, storedPixel_missOp d p⟩

/-- Bytes that bring the decoder from one op's start to another, taken as events where all of them have room (R29,
R44). -/
theorem Dec.Decodes.events {s : State} {d' : Dec} {bs : List Byte} {ps : List Pixel} (h : s.dec.Decodes bs d' ps)
    (hroom : s.dec.inpos.toNat + bs.length < posMax) :
    events (bs.map Event.decByte) s =
      .next { s with dec := d', pout := s.pout ++ ps.map (lane Config.pixelOrderDec) } := by
  rw [events_decByte, offerBytes_eq_putAll _ _ (by omega), h.bytes]
  exact putAll_of_room h.inpos hroom

/-- Settles O44: the decoder's half of `Agree.pixel`, taken as events; a pixel's ops are at most six bytes. -/
theorem engineAgreementKept : Obligations.EngineAgreementKept := by
  intro s p hst hinv hagree hs hroom
  obtain ⟨hrun, hcount, -⟩ := hinv.inBody hst
  obtain ⟨d', ps, hdec, hagree', hput⟩ := hagree.pixel hs hrun hcount p
  have hlen := Enc.pixelOps_length_le s.enc p
  have hfit : s.dec.inpos.toNat + (opBytes (s.enc.pixelOps p).2).length < posMax := by omega
  refine ⟨_, hdec.events hfit, hagree', hdec.start, ?_, ?_⟩
  · rw [hdec.inpos]
    exact inpos_toNat hfit
  · have hlanes := congrArg (List.map (lane Config.pixelOrderDec)) hput
    simp only [List.map_append, List.map_replicate, List.map_cons, List.map_nil] at hlanes
    rw [Enc.afterPixel_prev, List.append_assoc, hlanes, List.append_assoc]

/-! ### The encoder's pixel step -/

/-- Settles O40: the pixel's ops are the flush and its own op, and its cache write is the only one. -/
theorem cacheMissStoresAndEmits : Obligations.CacheMissStoresAndEmits := by
  intro s w p hst hw hp hwf hmiss hmore hroom
  obtain rfl : w = lane Config.pixelOrderEnc p := by rw [hw, lane_unlane]
  have hlen := Enc.pixelOps_length_le s.enc p
  have hbytes : opBytes (s.enc.pixelOps p).2 = runBytes s.enc.run ++ encode (missOp s.enc.prev p) := by
    rw [Enc.pixelOps_miss hp hmiss, opBytes_append, opBytes_runFlush, opBytes_one]
  have hcache : (s.afterPixel p).enc.cache = s.enc.cache.write (pixelHash p) p := by
    rw [State.afterPixel, Enc.afterPixel, Enc.pixelOps_miss hp hmiss]
  have hpos : (s.afterPixel p).enc.outpos.toNat = _ := outpos_toNat (e := s.enc) (by omega)
  refine ⟨_, event_encPixel_more hst p hmore hroom, ⟨rfl, rfl, rfl, rfl⟩, ?_, ?_, ?_, ?_, ?_⟩
  · rw [List.append_assoc, ← hbytes]
    rfl
  · rw [hcache, Memory.read_write_same _ _ hwf]
  · intro i hi
    rw [hcache, Memory.read_write_other _ _ hi]
  · rw [State.afterPixel, Enc.afterPixel, Enc.pixelOps_miss hp hmiss]
  · rw [hpos, State.afterPixel, List.length_append]
    omega

/-- A repeat emits nothing or the full run's byte, and with the run still pending after it at most one (R143, R155). -/
theorem Enc.opBytes_pixelOps_repeat {e : Enc} {p : Pixel} (h : p = e.prev) :
    (opBytes (e.pixelOps p).2 = [] ∨ opBytes (e.pixelOps p).2 = [0xFD#8]) ∧
      (opBytes (e.pixelOps p).2).length + (runBytes (e.pixelOps p).1.run).length ≤ 1 := by
  rw [Enc.pixelOps_repeat h]
  by_cases hr : e.run.toNat = 61
  · rw [Enc.runStep_full hr]
    exact ⟨.inr rfl, Nat.le_refl 1⟩
  · rw [Enc.runStep_more hr]
    exact ⟨.inl rfl, (Nat.zero_add _).trans_le (runBytes_length_le _)⟩

/-- Settles O43: the last pixel adds the pending run and the end marker to what any pixel emits. -/
theorem pixelStepEmitsAtMostFourteenBytes : Obligations.PixelStepEmitsAtMostFourteenBytes := by
  intro s t w h
  obtain ⟨-, hemit⟩ := encPixel_next h
  obtain ⟨-, rfl⟩ := emit_next hemit
  generalize unlane Config.pixelOrderEnc w = p
  refine ⟨_, rfl, ?_⟩
  have hlen := Enc.pixelOps_length_le s.enc p
  by_cases hlast : s.enc.count + 1 = s.enc.target
  · obtain ⟨hfst, hbytes⟩ := Enc.pixel_last p hlast
    rw [hfst, hbytes]
    simp only [List.length_append, List.length_cons, List.length_nil]
    refine ⟨by omega, by simp, fun hp => ⟨?_, by simp⟩⟩
    have hone := (Enc.opBytes_pixelOps_repeat hp).2
    omega
  · have hops : (s.enc.pixel p).2 = (s.enc.pixelOps p).2 := by rw [Enc.pixel_more p hlast]
    rw [hops]
    refine ⟨by omega, fun _ => by omega, fun hp => ?_⟩
    obtain ⟨hrepeat, hone⟩ := Enc.opBytes_pixelOps_repeat hp
    exact ⟨by omega, fun _ => hrepeat⟩

/-! ### The header and the step -/

theorem headerBytes_length (w h : BitVec 32) (c k : Byte) : (headerBytes w h c k).length = 14 := rfl

/-- Settles O31: a started decode takes the header's fourteen bytes in one piece. -/
theorem headerRoundTrips : Obligations.HeaderRoundTrips := by
  intro s w h c k hst hst' hc hk
  obtain ⟨buf, hbytes⟩ := Dec.bytes_header (d := s.dec.start) rfl rfl w h ((legalChannels_iff c).2 hc)
    ((legalColorspace_iff k).2 hk)
  have hev := events_decode (bs := headerBytes w h c k) hst hst' (by simp [headerBytes_length, posMax])
    (by rw [hbytes]; rfl)
  rw [hbytes] at hev
  exact ⟨_, hev, ⟨rfl, rfl, rfl, rfl⟩, List.append_nil _, rfl, rfl, rfl, rfl, rfl, rfl, area_toNat w h, rfl, rfl, rfl,
    rfl, Memory.read_cleared⟩

/-- The op lined up at an op's start is fetched (R80, R172). -/
theorem fetch_of_decode {s : State} {i : Instr} {rest : List Byte} (hs : s.dec.atOpStart = true)
    (h : decode s.dec.atTarget (leadingBytes s.pending) = .ok (i, rest)) : fetch s = some i := by
  simp [fetch, hs, h]

/-- Settles O25: the op lined up is fetched, and `step` runs what is fetched. -/
theorem stepRunsTheDecodedOp : Obligations.StepRunsTheDecodedOp := by
  intro s i rest hs h
  simp only [step, fetch_of_decode hs h, State.take]

end Sys2Proof.Machine
end

section
/-! PROOFS. The decoder and the encoder of the stream are each other's inverse, and the first byte names the op and its
length (30_encoding.md R92 to R103). -/

namespace Sys2Proof.Machine

/-! ### The round trips -/

/-- Settles O1: each op's first byte names it, and its fields are read back where `encode` put them. -/
theorem decodeUndoesEncode : Obligations.DecodeUndoesEncode := by
  intro i t rest hi hend hzero
  cases i with
  | rgb r g b => simp [encode, decode]
  | rgba r g b a => simp [encode, decode]
  | run n =>
    have hn : n.toNat ≤ 61 := by simpa [Instr.wf, Instr.isEnd] using hi
    simp [encode, decode, opOf_run t n hn, payloadOf_append]
  | index k =>
    have hk : k = 0 → t = false := fun h => hzero (congrArg Instr.index h)
    simp only [encode, List.cons_append, List.nil_append, decode, opOf_index t k hk, payloadOf_append]
  | diff rr gg bb => simp [encode, decode, opOf_diff, diffR_append, diffG_append, diffB_append]
  | luma gg xx yy => simp [encode, decode, opOf_luma, payloadOf_append, highNibble_append, lowNibble_append]
  | endMarker b1 b2 b3 b4 b5 b6 b7 => simp [encode, decode, hend rfl]

/-- The op decoded is the one its first byte names (R93, R102). -/
theorem opOf_of_decode {t : Bool} {b : Byte} {bs rest : List Byte} {i : Instr}
    (h : decode t (b :: bs) = .ok (i, rest)) : opOf t b = i.opName := by
  simp only [decode] at h
  split at h <;> cases h <;> assumption

/-- Settles O2: the bytes and the op's existence are `decode_ok`'s; the context is the one in which the op's first byte
names it. -/
theorem encodeUndoesDecode : Obligations.EncodeUndoesDecode := by
  intro t bs rest i h
  obtain ⟨rfl, hi⟩ := decode_ok h
  refine ⟨rfl, hi, fun hend => ?_, fun hzero => ?_⟩
  · cases i with
    | endMarker b1 b2 b3 b4 b5 b6 b7 => exact opOf_endMarker_atTarget t _ (opOf_of_decode h)
    | rgb | rgba | run | index | diff | luma => cases hend
  · subst hzero
    cases t with
    | false => rfl
    | true => exact absurd (opOf_of_decode h) (by decide)

/-! ### The first byte -/

/-- Bits 7:6 of a byte are its quarter of the 256 values (R13). -/
theorem tagOf_toNat (b : Byte) : (tagOf b).toNat = b.toNat / 64 := by
  have hb := b.isLt
  simp only [tagOf, BitVec.extractLsb'_toNat, Nat.shiftRight_eq_div_pow]
  omega

theorem encode_length (i : Instr) : (encode i).length = i.opName.length := by
  cases i <;> rfl

/-- Settles O3: the two exact matches come before the tags, a tag is a quarter of the byte values, and an op decoded is
as long as the name of its first byte says. -/
theorem firstByteNamesOpAndLength : Obligations.FirstByteNamesOpAndLength := by
  intro t b
  constructor
  · have htag := tagOf_toNat b
    have hb := b.isLt
    simp only [opOf, ← BitVec.toNat_inj, htag, BitVec.toNat_ofNat, Nat.reducePow, Nat.reduceMod]
    grind
  · intro bs rest i h
    have hlen := encode_length i
    rw [← opOf_of_decode h] at hlen
    refine ⟨hlen, ?_⟩
    have hbytes := congrArg List.length (decode_ok h).1
    rw [List.length_append, hlen] at hbytes
    exact hbytes

/-- Settles O4: `decode` computes each of the eight. -/
theorem specWordsDecode : Obligations.SpecWordsDecode := ⟨rfl, rfl, rfl, rfl, rfl, rfl, rfl, rfl⟩

end Sys2Proof.Machine
end

section
/-! PROOFS. RUN payloads that are no op, and the end marker byte by byte (30_encoding.md R96, R100, R103; 42_decoder.md
R178, R183). -/

namespace Sys2Proof.Machine

/-- Settles O11: the RUN row tests its payload, and what is decoded exists. -/
theorem reservedRunPayloadsAreNoOps : Obligations.ReservedRunPayloadsAreNoOps := by
  intro n hn
  have hover : ¬ n.toNat ≤ 61 := by omega
  refine ⟨fun s => if_neg hover, fun t bs rest h => hover ?_⟩
  simpa [Instr.wf, Instr.isEnd] using (decode_ok h).2

/-! ### The end marker -/

/-- Outside BODY no byte of END is accepted (R44, R183). -/
theorem Dec.endBytes_of_not_body {d : Dec} (h : d.st ≠ .body) (bs : List Byte) : d.endBytes bs = d := by
  cases bs with
  | nil => rfl
  | cons b bs => exact if_neg h

/-- A right byte of END that is not the last leaves the rest to be checked (R183). -/
theorem Dec.endBytes_right {d : Dec} {b : Byte} (hst : d.st = .body) (hb : b = endExpected d.opn) (hn : d.opn ≠ 6)
    (bs : List Byte) :
    d.endBytes (b :: bs) = { d with inpos := d.inpos + 1, opn := d.opn + 1 }.endBytes bs := by
  rw [Dec.endBytes, if_pos hst, Dec.endByte_right (d := d.accept 1) hb hn]
  rfl

/-- A wrong byte of END raises, and the bytes behind it are not accepted (R183, R214). -/
theorem Dec.endBytes_wrong {d : Dec} {b : Byte} (hst : d.st = .body) (hb : b ≠ endExpected d.opn) (bs : List Byte) :
    d.endBytes (b :: bs) = d.failedAtTag .missingEndBytes := by
  rw [Dec.endBytes, if_pos hst, Dec.endByte_wrong (d := d.accept 1) hb, Dec.endBytes_of_not_body (by simp)]
  rfl

/-- Of END's bytes the first `k` are counted where they are right, and one wrong after them raises (R183, R214). -/
theorem Dec.endBytes_firstWrong {k : Nat} {bs : List Byte} {b : Byte} {d : Dec} (hst : d.st = .body)
    (hlt : d.opn + k < 7) (hright : ∀ j, j < k → bs[j]? = some (endExpected (d.opn + j))) (hb : bs[k]? = some b)
    (hwrong : b ≠ endExpected (d.opn + k)) :
    d.endBytes bs =
      { d with
        inpos := d.inpos + BitVec.ofNat 64 (k + 1), opn := d.opn + k, err := .missingEndBytes, st := .error } := by
  induction k generalizing bs d with
  | zero =>
    cases bs with
    | nil => cases hb
    | cons c bs =>
      obtain rfl : c = b := by simpa using hb
      exact Dec.endBytes_wrong hst hwrong bs
  | succ k ih =>
    cases bs with
    | nil => cases hb
    | cons c bs =>
      have hc : c = endExpected d.opn := by simpa using hright 0 (by omega)
      have hopn : ∀ j, d.opn + 1 + j = d.opn + (j + 1) := fun j => by omega
      have hinpos : d.inpos + 1 + BitVec.ofNat 64 (k + 1) = d.inpos + BitVec.ofNat 64 (k + 1 + 1) := by
        rw [Nat.add_comm (k + 1), BitVec.ofNat_add 1, ← BitVec.add_assoc]
        rfl
      rw [Dec.endBytes_right hst hc (by omega),
        ih (d := { d with inpos := d.inpos + 1, opn := d.opn + 1 }) hst (by simp only; omega) ?_ (by simpa using hb)
          (by rwa [hopn])]
      · simp only [hopn, hinpos]
      · intro j hj
        simpa [hopn] using hright (j + 1) (by omega)

/-- The seven bytes END expects after its first (R100, R183). -/
theorem endMarkerBytes_getElem? : ∀ j, j < 7 → [0#8, 0#8, 0#8, 0#8, 0#8, 0#8, 1#8][j]? = some (endExpected j) := by
  decide

/-- An END row at the target, its first wrong byte the one after `k` right ones (R178, R183, R214). -/
theorem Dec.endOp_firstWrong {d : Dec} {bs : List Byte} {b : Byte} {k : Nat} (hst : d.st = .body) (hk : k < 7)
    (hright : ∀ j, j < k → bs[j]? = some (endExpected j)) (hb : bs[k]? = some b) (hwrong : b ≠ endExpected k) :
    d.endOp bs =
      ({ d with
        inpos := d.inpos + BitVec.ofNat 64 (k + 2), op := .endm, opn := k, err := .missingEndBytes, st := .error },
        []) := by
  have hstart : ∀ j, (d.accept 1).endStart.opn + j = j := Nat.zero_add
  rw [Dec.endOp, Dec.endBytes_firstWrong (d := (d.accept 1).endStart) (k := k) hst (by rwa [hstart])
    (by simpa only [hstart] using hright) hb (by rwa [hstart])]
  simp only [hstart, Dec.endStart_inpos, Dec.accept_inpos, BitVec.add_assoc, ← BitVec.ofNat_add]
  rw [Nat.add_comm 1]
  rfl

/-- Settles O16: the marker is `Dec.bytes_theEnd`, and a wrong one stops where its bytes first differ. -/
theorem endMarkerEndsOrFailsAtFirstWrongByte : Obligations.EndMarkerEndsOrFailsAtFirstWrongByte := by
  constructor
  · intro s hready hcount
    rw [exec_eq_putAll s (.inl rfl), Dec.bytes_theEnd hready.start hcount, putAll_of_room rfl hready.room]
    simp only [List.map_nil, List.append_nil]
    rfl
  · intro s b1 b2 b3 b4 b5 b6 b7 k hready hcount hk hright hwrong
    have hroom := hready.room
    obtain ⟨hst, -⟩ := Dec.atOpStart_iff.1 hready.start
    have hlen : k < [b1, b2, b3, b4, b5, b6, b7].length := hk
    rw [endMarkerBytes_getElem? k hk, List.getElem?_eq_getElem hlen, ne_eq, Option.some_inj] at hwrong
    rw [exec_eq_putAll s (.inr rfl), Dec.bytes_endMarker hready.start (decide_eq_true hcount),
      Dec.endOp_firstWrong hst hk (fun j hj => (hright j hj).trans (endMarkerBytes_getElem? j (by omega)))
        (List.getElem?_eq_getElem hlen) hwrong,
      putAll_of_room (n := k + 2) rfl (by omega), List.map_nil, List.append_nil]

end Sys2Proof.Machine
end

section
/-! PROOFS. The header's bytes at their offsets, its end of input, and the header an encode starts with (40_header.md
R120 to R127; 41_encoder.md R141; 42_decoder.md R185). -/

namespace Sys2Proof.Machine

/-! ### Header bytes -/

/-- DEC_BYTE in HEADER with room for a byte (R122). -/
theorem event_decByte_of_header {s : State} (b : Byte) (hst : s.dec.st = .header)
    (hroom : s.dec.inpos.toNat + 1 < posMax) :
    event (.decByte b) s = .next { s with dec := s.dec.headerByte b } := by
  have hinpos := Dec.byte_inpos s.dec b
  rw [if_pos (Dec.accepts_iff.2 (.inl hst)), Dec.byte_of_header hst] at hinpos
  rw [event, decByte, Dec.byte_of_header hst, putAll_silent hroom hinpos]

/-- A byte at an offset whose check only passes or raises: it is stored and counted either way (R122, R214). -/
theorem event_decByte_of_check {s : State} {b : Byte} {k : Nat} {c p : Prop} [Decidable c] {x : ErrCode}
    (hst : s.dec.st = .header) (hpos : s.dec.hpos = k) (hroom : s.dec.inpos.toNat + 1 < posMax)
    (hcheck : s.dec.headerByte b = if c then s.dec.storeHeaderByte b else (s.dec.storeHeaderByte b).raise x)
    (hiff : c ↔ p) :
    ∃ t, event (.decByte b) s = .next t ∧ t.pout = s.pout ∧
      t.dec = { s.dec with
        hbuf := s.dec.hbuf.setIfInBounds k b
        hpos := k + 1
        inpos := s.dec.inpos + 1
        st := t.dec.st
        err := t.dec.err } ∧
      (p → t.dec.st = .header ∧ t.dec.err = s.dec.err) ∧ (¬p → t.dec.st = .error ∧ t.dec.err = x) := by
  subst hpos
  refine ⟨_, event_decByte_of_header b hst hroom, rfl, ?_⟩
  by_cases hc : c
  · rw [hcheck, if_pos hc]
    exact ⟨rfl, fun _ => ⟨hst, rfl⟩, fun hp => absurd (hiff.1 hc) hp⟩
  · rw [hcheck, if_neg hc]
    exact ⟨rfl, fun hp => absurd (hiff.2 hp) hc, fun _ => ⟨rfl, rfl⟩⟩

/-- The magic is in when the three bytes before are and the byte at offset 3 is its last (R91, R123). -/
theorem Dec.storeHeaderByte_magic_iff {d : Dec} (b : Byte) (h : d.hpos = 3) :
    [(d.storeHeaderByte b).hbuf[0], (d.storeHeaderByte b).hbuf[1], (d.storeHeaderByte b).hbuf[2],
      (d.storeHeaderByte b).hbuf[3]] = magic ↔
      d.hbuf[0] = 0x71 ∧ d.hbuf[1] = 0x6F ∧ d.hbuf[2] = 0x69 ∧ b = 0x66 := by
  rw [Dec.storeHeaderByte_hbuf_of_ne b _ (by omega), Dec.storeHeaderByte_hbuf_of_ne b _ (by omega),
    Dec.storeHeaderByte_hbuf_of_ne b _ (by omega), Dec.storeHeaderByte_hbuf_of_eq b _ h]
  simp [magic]

/-- Settles O29: the byte is only stored where no check is due, and the checks at offsets 3 and 12 pass or raise. -/
theorem headerBytesCheckedAtTheirOffsets : Obligations.HeaderBytesCheckedAtTheirOffsets := by
  refine ⟨fun s b hst hle hne hroom => ?_, fun s b hst hpos hroom => ?_, fun s b hst hpos hroom => ?_⟩
  · rw [event_decByte_of_header b hst hroom, Dec.headerByte_unchecked b hne (by omega) (by omega)]
    rfl
  · exact event_decByte_of_check hst hpos hroom (Dec.headerByte_three b hpos) (Dec.storeHeaderByte_magic_iff b hpos)
  · exact event_decByte_of_check hst hpos hroom (Dec.headerByte_twelve b hpos) (legalChannels_iff b)

/-! ### The header's last byte -/

/-- Concatenation is a shift by a whole byte and an addition. -/
theorem append_byte_toNat {n : Nat} (x : BitVec n) (b : Byte) : (x ++ b).toNat = x.toNat * 2 ^ 8 + b.toNat := by
  rw [BitVec.toNat_append, Nat.shiftLeft_eq, Nat.mul_comm, Nat.two_pow_add_eq_or_of_lt b.isLt]

/-- A big-endian integer weighs its first byte most (R69, R101). -/
theorem be32_toNat (b0 b1 b2 b3 : Byte) :
    (be32 b0 b1 b2 b3).toNat = b0.toNat * 2 ^ 24 + b1.toNat * 2 ^ 16 + b2.toNat * 2 ^ 8 + b3.toNat := by
  rw [be32, append_byte_toNat, append_byte_toNat, append_byte_toNat]
  omega

/-- A legal colorspace at offset 13 completes the header, whose other fields are in the buffer before (R126). -/
theorem Dec.headerByte_completes {d : Dec} {b : Byte} (h : d.hpos = 13) (hlegal : legalColorspace b = true) :
    d.headerByte b =
      { d with
        hbuf := d.hbuf.setIfInBounds 13 b
        hpos := 14
        inpos := d.inpos + 1
        width := be32 d.hbuf[4] d.hbuf[5] d.hbuf[6] d.hbuf[7]
        height := be32 d.hbuf[8] d.hbuf[9] d.hbuf[10] d.hbuf[11]
        channels := d.hbuf[12]
        colorspace := b
        target := area (be32 d.hbuf[4] d.hbuf[5] d.hbuf[6] d.hbuf[7]) (be32 d.hbuf[8] d.hbuf[9] d.hbuf[10] d.hbuf[11])
        op := .none
        opn := 0
        st := .body } := by
  rw [Dec.headerByte_thirteen b h, if_pos hlegal]
  simp [Dec.completeHeader, Dec.storeHeaderByte, h]

/-- At the target the only first byte that raises nothing is `00` (R178, R179, R181). -/
theorem Dec.firstByte_atTarget_raises {d : Dec} {b : Byte} (hc : d.count = d.target) (hb : b ≠ 0#8) :
    ∃ x, d.firstByte b = (d.raise x, []) := by
  unfold Dec.firstByte
  split
  case h_1 | h_2 | h_6 | h_7 => exact ⟨_, Dec.orOverflow_at hc _⟩
  case h_3 => exact ⟨_, Dec.runOp_over (by rw [hc]; omega)⟩
  case h_4 hop =>
    refine ⟨_, Dec.indexOp_at_other hc fun hi => hb ?_⟩
    rw [← eq_of_opOf_index _ b hop, hi]
    rfl
  case h_5 hop => exact absurd (eq_of_opOf_endMarker _ b hop) hb

/-- At the target the byte `00` starts END (R178). -/
theorem Dec.firstByte_atTarget_zero {d : Dec} (hc : d.count = d.target) : d.firstByte 0#8 = (d.endStart, []) := by
  simp [Dec.firstByte, Dec.atTarget, hc]

/-- An op's first byte at the target leads to END's other bytes or to ERROR (R172, R178, R179, R181). -/
theorem event_decByte_atTarget {s : State} (hs : s.dec.atOpStart = true) (hc : s.dec.count = s.dec.target)
    (hroom : s.dec.inpos.toNat + 1 < posMax) (b : Byte) :
    ∃ t, event (.decByte b) s = .next t ∧ (b.toNat = 0 → t.dec.st = .body ∧ t.dec.op = .endm) ∧
      (b.toNat ≠ 0 → t.dec.st = .error) := by
  rw [event, decByte, Dec.byte_of_start hs]
  by_cases hb : b = 0#8
  · subst hb
    rw [Dec.firstByte_atTarget_zero (d := s.dec.accept 1) hc, putAll_silent hroom rfl]
    exact ⟨_, rfl, fun _ => ⟨(Dec.atOpStart_iff.1 hs).1, rfl⟩, fun h => absurd rfl h⟩
  · obtain ⟨x, hx⟩ := Dec.firstByte_atTarget_raises (d := s.dec.accept 1) hc hb
    rw [hx, putAll_silent hroom rfl]
    exact ⟨_, rfl, fun h => absurd (BitVec.eq_of_toNat_eq h) hb, fun _ => rfl⟩

/-- Settles O30: the colorspace check completes the header or raises, and a completed header with no pixels owed is at
its target. -/
theorem headerCompletesAtOffsetThirteen : Obligations.HeaderCompletesAtOffsetThirteen := by
  intro s b hst hpos hroom
  have hev := event_decByte_of_header b hst hroom
  by_cases hb : b.toNat ≤ 1
  · rw [Dec.headerByte_completes hpos ((legalColorspace_iff b).2 hb)] at hev
    refine ⟨_, hev, rfl, rfl, rfl, rfl, rfl, rfl, rfl, rfl, rfl, ⟨rfl, rfl, rfl, rfl⟩, fun _ => ?_, by omega⟩
    refine ⟨be32_toNat _ _ _ _, be32_toNat _ _ _ _, rfl, rfl, area_toNat _ _, rfl, rfl, rfl, rfl,
      fun hcount htarget => ?_⟩
    have hc := hcount.trans htarget.symm
    exact ⟨hc, event_decByte_atTarget rfl hc⟩
  · rw [Dec.headerByte_thirteen b hpos, if_neg (mt (legalColorspace_iff b).1 hb)] at hev
    refine ⟨_, hev, congrArg (· + 1) hpos, rfl, rfl, congrArg (s.dec.hbuf.setIfInBounds · b) hpos, rfl, rfl, rfl,
      rfl, rfl, ⟨rfl, rfl, rfl, rfl⟩, fun h => absurd h hb, fun _ => ?_⟩
    exact ⟨rfl, rfl, rfl, rfl, rfl, rfl, rfl, rfl, rfl⟩

/-! ### The end of the input, and ENC_START -/

/-- DEC_EOS in HEADER (R127). -/
theorem event_decEos_of_header {s : State} (hst : s.dec.st = .header) :
    event .decEos s = .next { s with dec := s.dec.headerEos } := by
  simp only [event, decEos, hst]

/-- Settles O32: HEADER's error is chosen by the bytes seen, BODY's is one. -/
theorem endOfInputRaises : Obligations.EndOfInputRaises := by
  refine ⟨fun s hst hlt => ?_, fun s hst hle => ?_, fun s hst => ?_⟩
  · rw [event_decEos_of_header hst, Dec.headerEos, if_pos hlt]
    rfl
  · rw [event_decEos_of_header hst, Dec.headerEos, if_neg (Nat.not_lt.2 hle)]
    rfl
  · simp only [event, decEos, hst]
    rfl

/-- Settles O37: `encStart_of_legal`, with the target the exact product and the cache cleared. -/
theorem encStartEmitsHeader : Obligations.EncStartEmitsHeader := by
  intro s hst hc hk hlen
  have harea := area_toNat s.enc.cfgWidth s.enc.cfgHeight
  have hpixlen : s.enc.cfgPixlen = area s.enc.cfgWidth s.enc.cfgHeight :=
    BitVec.eq_of_toNat_eq (hlen.trans harea.symm)
  exact ⟨_, encStart_of_legal hst ((legalChannels_iff _).2 hc) ((legalColorspace_iff _).2 hk) hpixlen,
    ⟨rfl, rfl, rfl, rfl⟩, rfl, rfl, Memory.read_cleared, rfl, rfl, harea, rfl, rfl, rfl, rfl, rfl, rfl, rfl, rfl⟩

end Sys2Proof.Machine
end

section
/-! PROOFS. The encoder's pixel step by its cases, the op of a missed pixel and its bytes, ENC_START's length check and
reported I/O failures (30_encoding.md R98, R99, R101; 41_encoder.md R140 to R156; 42_decoder.md R186). -/

namespace Sys2Proof.Machine

/-! ### A pixel that is not the last -/

/-- A pixel that is not the last emits its ops where their bytes have room (R29, R152). -/
theorem event_encPixel_more_of_room {s : State} (hst : s.enc.st = .body) (p : Pixel)
    (h : s.enc.count + 1 ≠ s.enc.target)
    (hroom : s.enc.outpos.toNat + (opBytes (s.enc.pixelOps p).2).length < posMax) :
    event (.encPixel (lane Config.pixelOrderEnc p)) s = .next (s.afterPixel p) := by
  rw [event_encPixel_lane hst, Enc.pixel_more p h, emit_of_room (by rwa [Enc.pixelOps_outpos]), Enc.pixelOps_outpos]
  rfl

/-- Settles O38: a repeat's step is `runStep`, which emits the full run's byte or nothing. -/
theorem repeatIsCounted : Obligations.RepeatIsCounted := by
  intro s w hst hw _ hmore hroom
  rw [← lane_unlane Config.pixelOrderEnc w, hw]
  have hlen := (Enc.opBytes_pixelOps_repeat (e := s.enc) rfl).2
  rw [event_encPixel_more_of_room hst _ hmore (by omega), State.afterPixel, Enc.afterPixel, Enc.pixelOps_repeat rfl]
  by_cases hfull : s.enc.run.toNat = 61
  · rw [Enc.runStep_full hfull, if_pos hfull]
    rfl
  · rw [Enc.runStep_more hfull, if_neg hfull]
    simp

/-- Settles O39: the pixel's ops are the flush and INDEX, at most two bytes, and the hit writes no slot. -/
theorem cacheHitEmitsIndex : Obligations.CacheHitEmitsIndex := by
  intro s w p hst hw hp hhit hmore hroom
  obtain rfl : w = lane Config.pixelOrderEnc p := by rw [hw, lane_unlane]
  have hbytes : opBytes (s.enc.pixelOps p).2 = runBytes s.enc.run ++ [0b00#2 ++ pixelHash p] := by
    rw [Enc.pixelOps_hit hp hhit, opBytes_append, opBytes_runFlush, opBytes_one, encode]
  have hlen : (opBytes (s.enc.pixelOps p).2).length ≤ 2 := by
    rw [hbytes, List.length_append]
    exact Nat.add_le_add_right (runBytes_length_le _) 1
  have hpos : (s.afterPixel p).enc.outpos.toNat = _ := outpos_toNat (e := s.enc) (by omega)
  refine ⟨_, event_encPixel_more_of_room hst p hmore (by omega), ⟨rfl, rfl, rfl, rfl⟩, ?_, ?_, ?_⟩
  · rw [List.append_assoc, ← hbytes]
    rfl
  · rw [State.afterPixel, Enc.afterPixel, Enc.pixelOps_hit hp hhit]
  · rw [hpos, State.afterPixel, List.length_append]
    omega

/-! ### The last pixel -/

/-- Settles O42: `event_encPixel_last`, with the last pixel's bytes in their order. -/
theorem lastPixelFinalizes : Obligations.LastPixelFinalizes := by
  intro s w hst hlast hroom
  have hev := event_encPixel_last hst (unlane Config.pixelOrderEnc w) hlast hroom
  rw [lane_unlane] at hev
  refine ⟨_, hev, ⟨rfl, rfl, rfl, rfl⟩, rfl, rfl, ?_, Enc.pixelOps_target _ _, Enc.pixelOps_err _ _,
    Enc.pixelOps_prev _ _, ?_⟩
  · exact hlast.trans (Enc.pixelOps_target _ _).symm
  · rw [List.append_assoc, List.append_assoc]
    rfl

/-! ### The op of a pixel that missed -/

/-- Concatenation is a shift by the lower part's width and an addition. -/
theorem append_toNat {n m : Nat} (x : BitVec n) (y : BitVec m) : (x ++ y).toNat = x.toNat * 2 ^ m + y.toNat := by
  rw [BitVec.toNat_append, Nat.shiftLeft_eq, Nat.mul_comm, Nat.two_pow_add_eq_or_of_lt y.isLt]

/-- A delta in a field's range is stored with its bias (R101). -/
theorem biased_toNat {n : Nat} {bias v : Int} (h0 : 0 ≤ v + bias) (h1 : v + bias < 2 ^ n) :
    ((biased n bias v).toNat : Int) = v + bias := by
  have h := unbiased_biased h0 h1
  rw [unbiased] at h
  omega

/-- The three wrapped deltas lie in DIFF's range (R147). -/
def DiffFits (dr dg db : Int) : Prop := (-2 ≤ dr ∧ dr ≤ 1) ∧ (-2 ≤ dg ∧ dg ≤ 1) ∧ (-2 ≤ db ∧ db ≤ 1)

/-- The green delta and the two green-relative deltas lie in LUMA's ranges (R148). -/
def LumaFits (dg xr xb : Int) : Prop := (-32 ≤ dg ∧ dg ≤ 31) ∧ (-8 ≤ xr ∧ xr ≤ 7) ∧ (-8 ≤ xb ∧ xb ≤ 7)

/-- The encoder's check for DIFF (R147). -/
theorem diffFits_iff {dr dg db : Int} :
    (within (-2) 1 dr && within (-2) 1 dg && within (-2) 1 db) = true ↔ DiffFits dr dg db := by
  simp only [Bool.and_eq_true, within_iff, and_assoc, DiffFits]

/-- The encoder's check for LUMA (R148). -/
theorem lumaFits_iff {dg xr xb : Int} :
    (within (-32) 31 dg && within (-8) 7 xr && within (-8) 7 xb) = true ↔ LumaFits dg xr xb := by
  simp only [Bool.and_eq_true, within_iff, and_assoc, LumaFits]

/-- DIFF's byte as a number (R98). -/
theorem DiffFits.encode_toNat {dr dg db : Int} (h : DiffFits dr dg db) :
    ((encode (.diff (biased 2 2 dr) (biased 2 2 dg) (biased 2 2 db))).map BitVec.toNat).map Int.ofNat =
      [64 + 16 * (dr + 2) + 4 * (dg + 2) + (db + 2)] := by
  obtain ⟨hr, hg, hb⟩ := h
  have hr' : ((biased 2 2 dr).toNat : Int) = dr + 2 := biased_toNat (by omega) (by omega)
  have hg' : ((biased 2 2 dg).toNat : Int) = dg + 2 := biased_toNat (by omega) (by omega)
  have hb' : ((biased 2 2 db).toNat : Int) = db + 2 := biased_toNat (by omega) (by omega)
  simp only [encode, List.map_cons, List.map_nil, List.cons.injEq, and_true, append_toNat, Int.ofNat_eq_natCast,
    BitVec.toNat_ofNat]
  omega

/-- LUMA's two bytes as numbers (R99). -/
theorem LumaFits.encode_toNat {dg xr xb : Int} (h : LumaFits dg xr xb) :
    ((encode (.luma (biased 6 32 dg) (biased 4 8 xr) (biased 4 8 xb))).map BitVec.toNat).map Int.ofNat =
      [128 + (dg + 32), 16 * (xr + 8) + (xb + 8)] := by
  obtain ⟨hg, hr, hb⟩ := h
  have hg' : ((biased 6 32 dg).toNat : Int) = dg + 32 := biased_toNat (by omega) (by omega)
  have hr' : ((biased 4 8 xr).toNat : Int) = xr + 8 := biased_toNat (by omega) (by omega)
  have hb' : ((biased 4 8 xb).toNat : Int) = xb + 8 := biased_toNat (by omega) (by omega)
  simp only [encode, List.map_cons, List.map_nil, List.cons.injEq, and_true, append_toNat, Int.ofNat_eq_natCast,
    BitVec.toNat_ofNat]
  omega

section
variable {q p : Pixel}

theorem missOp_rgba (ha : p.a ≠ q.a) : missOp q p = .rgba p.r p.g p.b p.a := if_neg ha

theorem missOp_diff (ha : p.a = q.a) (h : DiffFits (sdiff8 p.r q.r) (sdiff8 p.g q.g) (sdiff8 p.b q.b)) :
    missOp q p = .diff (biased 2 2 (sdiff8 p.r q.r)) (biased 2 2 (sdiff8 p.g q.g)) (biased 2 2 (sdiff8 p.b q.b)) := by
  rw [missOp, if_pos ha, if_pos (diffFits_iff.2 h)]

variable (hdiff : ¬DiffFits (sdiff8 p.r q.r) (sdiff8 p.g q.g) (sdiff8 p.b q.b))
include hdiff

theorem missOp_luma (ha : p.a = q.a)
    (h : LumaFits (sdiff8 p.g q.g) (relDelta (sdiff8 p.r q.r) (sdiff8 p.g q.g))
      (relDelta (sdiff8 p.b q.b) (sdiff8 p.g q.g))) :
    missOp q p = .luma (biased 6 32 (sdiff8 p.g q.g)) (biased 4 8 (relDelta (sdiff8 p.r q.r) (sdiff8 p.g q.g)))
      (biased 4 8 (relDelta (sdiff8 p.b q.b) (sdiff8 p.g q.g))) := by
  rw [missOp, if_pos ha, if_neg (mt diffFits_iff.1 hdiff), if_pos (lumaFits_iff.2 h)]

theorem missOp_rgb (ha : p.a = q.a)
    (h : ¬LumaFits (sdiff8 p.g q.g) (relDelta (sdiff8 p.r q.r) (sdiff8 p.g q.g))
      (relDelta (sdiff8 p.b q.b) (sdiff8 p.g q.g))) :
    missOp q p = .rgb p.r p.g p.b := by
  rw [missOp, if_pos ha, if_neg (mt diffFits_iff.1 hdiff), if_neg (mt lumaFits_iff.1 h)]

end

theorem sext8_bounds (x : Byte) : -128 ≤ sext8 x ∧ sext8 x ≤ 127 :=
  ⟨BitVec.le_toInt x, Int.le_of_lt_add_one (BitVec.toInt_lt (x := x))⟩

theorem sdiff8_bounds (x y : Byte) : -128 ≤ sdiff8 x y ∧ sdiff8 x y ≤ 127 := sext8_bounds _

theorem relDelta_bounds (d dg : Int) : -128 ≤ relDelta d dg ∧ relDelta d dg ≤ 127 := sext8_bounds _

/-- Where the green delta fits LUMA, the wrap brings no green-relative delta into LUMA's range or out of it (R148). -/
theorem relDelta_fits_iff (x y : Byte) {dg : Int} (hg : -32 ≤ dg ∧ dg ≤ 31) :
    (-8 ≤ relDelta (sdiff8 x y) dg ∧ relDelta (sdiff8 x y) dg ≤ 7) ↔ (-8 ≤ sdiff8 x y - dg ∧ sdiff8 x y - dg ≤ 7) := by
  have hwrap := relDelta_emod (sdiff8 x y) dg
  have hrel := relDelta_bounds (sdiff8 x y) dg
  have hd := sdiff8_bounds x y
  omega

/-- Channels whose wrapped difference is 0 are equal (R9). -/
theorem eq_of_sdiff8_eq_zero {x y : Byte} (h : sdiff8 x y = 0) : x = y := by
  rw [← shiftBy_sdiff8 x y, h, shiftBy, Int.add_zero, wrap8_toNat]

/-- Settles O41: one lemma per op for the choice and its bytes, `relDelta_fits_iff` for the wrap, and
`eq_of_sdiff8_eq_zero` per channel for the delta that is not 0. -/
theorem missOpChoice : Obligations.MissOpChoice := by
  rintro q p _ _ _ _ _ rfl rfl rfl rfl rfl
  refine ⟨fun ha => ?_, fun ha => ⟨fun hdiff => ?_, fun hdiff => ⟨fun hluma => ?_, fun hluma => ?_⟩⟩, fun hg => ?_,
    fun ha hne hzero => ?_⟩
  · rw [missOp_rgba ha, encode]
  · rw [missOp_diff ha hdiff, DiffFits.encode_toNat hdiff]
  · rw [missOp_luma hdiff ha hluma]
    exact LumaFits.encode_toNat hluma
  · rw [missOp_rgb hdiff ha hluma, encode]
  · exact ⟨relDelta_fits_iff p.r q.r hg, relDelta_fits_iff p.b q.b hg⟩
  · obtain ⟨hr, hg, hb⟩ := hzero
    have heq : (⟨p.r, p.g, p.b, p.a⟩ : Pixel) = q := by
      rw [eq_of_sdiff8_eq_zero hr, eq_of_sdiff8_eq_zero hg, eq_of_sdiff8_eq_zero hb, ha]
    exact hne heq

/-! ### ENC_START's length check, and reported I/O failures -/

/-- ENC_START with legal tags and a pixel buffer of another length than the image's (R140). -/
theorem encStart_of_lengthMismatch {s : State} (hst : s.enc.st ≠ .body)
    (hc : legalChannels s.enc.cfgChannels = true) (hk : legalColorspace s.enc.cfgColorspace = true)
    (hlen : s.enc.cfgPixlen ≠ area s.enc.cfgWidth s.enc.cfgHeight) :
    encStart s = .next { s with enc := s.enc.clearForStart.raise .dimensionsMismatchPixelsLength } := by
  rw [encStart, if_neg hst, if_neg (by simp [hc, hk]), if_pos hlen]

/-- Settles O36: `encStart_of_lengthMismatch`, the area being the exact product. -/
theorem encStartChecksPixelLength : Obligations.EncStartChecksPixelLength := by
  intro s hst hc hk hlen
  refine encStart_of_lengthMismatch hst ((legalChannels_iff _).2 hc) ((legalColorspace_iff _).2 hk) fun harea => hlen ?_
  rw [harea, area_toNat]

/-- Settles O33, by the states of each engine. -/
theorem ioFailureRaises : Obligations.IoFailureRaises := by
  refine ⟨fun s hst => ?_, fun s hst => ?_, fun s hst => ?_, fun s hst => ?_⟩
  · rcases hst with h | h <;> simp only [event, decIoErr, h, Dec.raise]
  · rcases hst with h | h | h <;> simp only [event, decIoErr, h]
  · rcases hst with h | h <;> simp only [event, encIoErr, h, Enc.raise]
  · rcases hst with h | h <;> simp only [event, encIoErr, h]

end Sys2Proof.Machine
end

section
/-! PROOFS. What each op of the decoder does whole: the pixel it delivers, the operand fields it leaves, and the error
it raises at the target (42_decoder.md R171 to R182). -/

namespace Sys2Proof.Machine

/-! ### One-byte ops keep the operand fields -/

theorem Dec.SameOperands.refl (d : Dec) : d.SameOperands d := ⟨rfl, rfl, rfl⟩

/-- RUN writes the count, or raises (R176). -/
theorem Dec.runOp_frame (d : Dec) (n : BitVec 6) :
    d.SameOperands (d.runOp n).1 ∧ (d.runOp n).1.prev = d.prev ∧ (d.runOp n).1.op = d.op := by
  unfold Dec.runOp
  split
  all_goals exact ⟨Dec.SameOperands.refl d, rfl, rfl⟩

/-- INDEX writes no operand field but the operand count, and that only where it starts END (R177, R178). -/
theorem Dec.indexOp_operands (d : Dec) (i : BitVec 6) :
    (d.indexOp i).1.optag = d.optag ∧ (d.indexOp i).1.opbuf = d.opbuf ∧
      ((d.indexOp i).1.op ≠ .endm → (d.indexOp i).1.opn = d.opn) := by
  unfold Dec.indexOp
  repeat' split
  · exact ⟨rfl, rfl, fun h => absurd rfl h⟩
  · exact ⟨rfl, rfl, fun _ => rfl⟩
  · exact ⟨rfl, rfl, fun _ => rfl⟩

/-- DIFF delivers a pixel, or raises (R180). -/
theorem Dec.diffOp_frame (d : Dec) (rr gg bb : BitVec 2) :
    d.SameOperands (d.diffOp rr gg bb).1 ∧ (d.diffOp rr gg bb).1.op = d.op := by
  unfold Dec.diffOp Dec.orOverflow
  split
  all_goals exact ⟨Dec.SameOperands.refl d, rfl⟩

/-- The decoder an op with a next state leaves, where the op whole is known. -/
theorem exec_next_dec {i : Instr} {s t : State} {r : Dec × List Pixel} (h : exec i s = .next t)
    (hwhole : Dec.bytes (encode i) s.dec = r) : t.dec = r.1 := by
  rw [exec_next h, hwhole]

/-- Settles O21: the frame of each of the three, behind one byte accepted. -/
theorem oneByteOpsFrame : Obligations.OneByteOpsFrame := by
  intro s t hs
  refine ⟨fun n h => ?_, fun i h => ?_, fun rr gg bb h => ?_⟩
  · have hn : n.toNat ≤ 61 := by simpa [Instr.wf, Instr.isEnd] using exec_next_exists h
    obtain ⟨hoperands, hprev, hop⟩ := Dec.runOp_frame (s.dec.accept 1) n
    rw [exec_next_dec h (Dec.bytes_run hs hn)]
    exact ⟨hoperands, hprev, Dec.runOp_cache _ n, hop⟩
  · rw [exec_next_dec h (Dec.bytes_index hs i)]
    exact ⟨Dec.indexOp_cache _ i, Dec.indexOp_operands (s.dec.accept 1) i⟩
  · rw [exec_next_dec h (Dec.bytes_diff hs rr gg bb)]
    exact Dec.diffOp_frame (s.dec.accept 1) rr gg bb

/-! ### The three ends an op can have -/

/-- An op whose first byte raises has that byte counted and nothing else done (R181, R214). -/
theorem exec_raises {i : Instr} {s : State} {x : ErrCode} (h : s.OpReady 1) (hi : i.wf = true ∨ i.isEnd = true)
    (hwhole : Dec.bytes (encode i) s.dec = ((s.dec.accept 1).raise x, [])) :
    exec i s = .next { s with dec := s.dec.failedAtTag x } := by
  rw [exec_eq_putAll s hi, hwhole]
  exact putAll_silent h.room rfl

/-- An op that delivers a pixel, its operand fields written before (R171). -/
theorem exec_delivers {i : Instr} {s : State} {n opn : Nat} {p : Pixel} {store : Bool} {tag : Byte}
    {buf : Vector Byte 4} (h : s.OpReady n) (hi : i.wf = true ∨ i.isEnd = true)
    (hwhole : Dec.bytes (encode i) s.dec =
      { s.dec.accept n with optag := tag, opn := opn, opbuf := buf }.deliver p store) :
    ∃ t, exec i s = .next t ∧ s.Delivered t n p store ∧ t.dec.optag = tag ∧ t.dec.opn = opn ∧ t.dec.opbuf = buf := by
  obtain ⟨-, hop⟩ := Dec.atOpStart_iff.1 h.start
  obtain ⟨t, hput, hdelivered, hdec⟩ :=
    putAll_deliver (d := { s.dec.accept n with optag := tag, opn := opn, opbuf := buf }) p store h.room rfl rfl rfl hop
      rfl rfl ⟨rfl, rfl, rfl, rfl, rfl, rfl, rfl⟩
  rw [exec_eq_putAll s hi, hwhole]
  exact ⟨t, hput, hdelivered, by rw [hdec]; exact ⟨rfl, rfl, rfl⟩⟩

/-- At an op's start a byte is a first byte (R172). -/
theorem event_decByte_of_start {s : State} (hs : s.dec.atOpStart = true) (b : Byte) :
    event (.decByte b) s = putAll s ((s.dec.accept 1).firstByte b) := by
  rw [event, decByte, Dec.byte_of_start hs]

/-- Below the target the first byte of RGB, RGBA or LUMA leaves the op pending (R173, R175, R182). -/
theorem event_decByte_of_tag {s : State} {o : PendingOp} {b : Byte} (h : s.OpReady 1)
    (hc : s.dec.count ≠ s.dec.target) (hb : (s.dec.accept 1).firstByte b = (s.dec.accept 1).tagByte o b) :
    event (.decByte b) s =
      .next { s with dec := { s.dec with inpos := s.dec.inpos + 1, op := o, optag := b, opn := 0 } } := by
  rw [event_decByte_of_start h.start, hb, Dec.tagByte, Dec.orOverflow_below (d := s.dec.accept 1) hc,
    putAll_silent h.room rfl]
  rfl

/-- The end of the input in BODY (R185). -/
theorem event_decEos_of_body {s : State} (hst : s.dec.st = .body) :
    event .decEos s = .next { s with dec := { s.dec with err := .missingEndBytes, st := .error } } :=
  endOfInputRaises.2.2 s hst

/-! ### RGB, RGBA, LUMA and DIFF -/

/-- Settles O8: RGB whole on either side of the overflow check, its tag alone, and the end of the input in BODY. -/
theorem rgbDeliversRawPixel : Obligations.RgbDeliversRawPixel := by
  refine ⟨fun s r g b h hc => ?_, fun s r g b h hc => ?_, fun s h hc => ?_, fun s hst _ => event_decEos_of_body hst⟩
  · exact exec_delivers h (.inl rfl) ((Dec.bytes_rgb h.start r g b).trans (if_neg hc))
  · exact exec_raises h (.inl rfl) ((Dec.bytes_rgb h.start r g b).trans (if_pos hc))
  · exact event_decByte_of_tag h hc (by simp [Dec.firstByte])

/-- Settles O9: RGBA whole on either side of the overflow check, its tag alone, and the end of the input in BODY. -/
theorem rgbaDeliversRawPixel : Obligations.RgbaDeliversRawPixel := by
  refine ⟨fun s r g b a h hc => ?_, fun s r g b a h hc => ?_, fun s h hc => ?_, fun s hst _ => event_decEos_of_body hst⟩
  · exact exec_delivers h (.inl rfl) ((Dec.bytes_rgba h.start r g b a).trans (if_neg hc))
  · exact exec_raises h (.inl rfl) ((Dec.bytes_rgba h.start r g b a).trans (if_pos hc))
  · exact event_decByte_of_tag h hc (by simp [Dec.firstByte])

/-- The bytes whose tag is LUMA's, as numbers (R93). -/
theorem opOf_eq_luma {b : Byte} (t : Bool) (hlo : 0x80 ≤ b.toNat) (hhi : b.toNat ≤ 0xBF) : opOf t b = .luma := by
  rw [(firstByteNamesOpAndLength t b).1, if_neg (by omega), if_neg (by omega), if_neg (by omega), if_pos hlo]

/-- LUMA's pixel with its deltas written out (R182). -/
theorem lumaPixel_eq (q : Pixel) (gg : BitVec 6) (xx yy : BitVec 4) :
    lumaPixel q gg xx yy =
      ⟨wrap8 ((q.r.toNat : Int) + ((xx.toNat : Int) - 8) + ((gg.toNat : Int) - 32)),
        wrap8 ((q.g.toNat : Int) + ((gg.toNat : Int) - 32)),
        wrap8 ((q.b.toNat : Int) + ((yy.toNat : Int) - 8) + ((gg.toNat : Int) - 32)), q.a⟩ := by
  simp only [lumaPixel, shiftBy, unbiased, Int.add_assoc]

/-- DIFF's pixel with its deltas written out (R180). -/
theorem diffPixel_eq (q : Pixel) (rr gg bb : BitVec 2) :
    diffPixel q rr gg bb =
      ⟨wrap8 ((q.r.toNat : Int) + rr.toNat - 2), wrap8 ((q.g.toNat : Int) + gg.toNat - 2),
        wrap8 ((q.b.toNat : Int) + bb.toNat - 2), q.a⟩ := by
  simp only [diffPixel, shiftBy, unbiased, Int.add_sub_assoc]

/-- Settles O15: LUMA whole on either side of the overflow check, its first byte alone, and the end of the input in
BODY. -/
theorem lumaAddsRelativeDeltas : Obligations.LumaAddsRelativeDeltas := by
  refine ⟨fun s gg xx yy h hc => ?_, fun s gg xx yy h hc => ?_, fun s b h hc hlo hhi => ?_,
    fun s hst _ => event_decEos_of_body hst⟩
  · obtain ⟨t, hexec, hdelivered, htag, hopn, hbuf⟩ :=
      exec_delivers h (.inl rfl) ((Dec.bytes_luma h.start gg xx yy).trans (if_neg hc))
    rw [lumaPixel_eq] at hdelivered
    exact ⟨t, hexec, hdelivered, by rw [htag, append_toNat]; rfl, hopn, hbuf⟩
  · exact exec_raises h (.inl rfl) ((Dec.bytes_luma h.start gg xx yy).trans (if_pos hc))
  · exact event_decByte_of_tag h hc (by simp only [Dec.firstByte, opOf_eq_luma _ hlo hhi])

/-- Settles O14: DIFF whole on either side of the overflow check. -/
theorem diffAddsDeltas : Obligations.DiffAddsDeltas := by
  refine ⟨fun s rr gg bb h hc => ?_, fun s rr gg bb h hc => ?_⟩
  · obtain ⟨t, hexec, hdelivered, hoperands⟩ :=
      exec_delivers h (.inl rfl)
        ((Dec.bytes_diff h.start rr gg bb).trans (Dec.orOverflow_below (d := s.dec.accept 1) hc _))
    rw [Dec.accept_prev, diffPixel_eq] at hdelivered
    exact ⟨t, hexec, hoperands, hdelivered⟩
  · exact exec_raises h (.inl rfl)
      ((Dec.bytes_diff h.start rr gg bb).trans (Dec.orOverflow_at (d := s.dec.accept 1) hc _))

/-! ### RUN and INDEX -/

/-- Settles O10: RUN whole where its pixels fit, and where they pass the target. -/
theorem runRepeatsPreviousPixel : Obligations.RunRepeatsPreviousPixel := by
  refine ⟨fun s n hn h hfit => ?_, fun s n hn h hover => ?_⟩
  · have hwf : (Instr.run n).wf = true := decide_eq_true hn
    have hwhole := (Dec.bytes_run h.start hn).trans (Dec.runOp_fits (d := s.dec.accept 1) hfit)
    rw [exec_eq_putAll s (.inl hwf), hwhole, putAll_of_room rfl h.room]
    exact ⟨_, rfl, count_add_toNat hfit, by rw [List.map_replicate]; rfl⟩
  · have hwf : (Instr.run n).wf = true := decide_eq_true hn
    exact exec_raises h (.inl hwf)
      ((Dec.bytes_run h.start hn).trans (Dec.runOp_over (d := s.dec.accept 1) hover))

/-- Settles O12: INDEX whole below the target, the cache of a started decode, and the byte `00` below the target. -/
theorem indexDeliversSlot : Obligations.IndexDeliversSlot := by
  refine ⟨fun s i h hc => ?_, fun s t i h => ?_, fun s bs hc => ?_⟩
  · obtain ⟨t, hexec, hdelivered, hoperands⟩ :=
      exec_delivers h (.inl rfl) ((Dec.bytes_index h.start i).trans (Dec.indexOp_below (d := s.dec.accept 1) hc i))
    obtain ⟨-, hframe, -⟩ := oneByteOpsFrame s t h.start
    exact ⟨t, hexec, hdelivered, (hframe i hexec).1, hoperands⟩
  · obtain ⟨-, -, rfl⟩ := decStart_next h
    exact Memory.read_cleared i
  · have hbelow : s.dec.atTarget = false := decide_eq_false hc
    rw [hbelow]
    exact decodeUndoesEncode (.index 0) false bs (.inl rfl) (fun hend => by cases hend) fun _ => rfl

/-! ### First bytes at the target -/

/-- The byte of an INDEX is the INDEX row, END's first byte included (R177, R178). -/
theorem event_decByte_index {s : State} (hs : s.dec.atOpStart = true) (i : BitVec 6) :
    event (.decByte (0b00#2 ++ i)) s = exec (.index i) s := by
  rw [exec_eq_putAll s (.inl rfl), encode, Dec.bytes_one hs, event_decByte_of_start hs]

/-- The INDEX row at the target (R178, R179). -/
theorem exec_index_atTarget {s : State} (h : s.OpReady 1) (hc : s.dec.count = s.dec.target) (i : BitVec 6) :
    exec (.index i) s =
      .next { s with
        dec :=
          if i.toNat = 0 then { s.dec with inpos := s.dec.inpos + 1, op := .endm, opn := 0 }
          else s.dec.failedAtTag .missingEndBytes } := by
  by_cases hi : i = 0
  · rw [exec_eq_putAll s (.inl rfl), Dec.bytes_index h.start, hi, Dec.indexOp_at_zero (d := s.dec.accept 1) hc,
      putAll_silent h.room rfl]
    rfl
  · have hne : i.toNat ≠ 0 := fun h0 => hi (BitVec.eq_of_toNat_eq h0)
    rw [if_neg hne]
    exact exec_raises h (.inl rfl)
      ((Dec.bytes_index h.start i).trans (Dec.indexOp_at_other (d := s.dec.accept 1) hc hi))

/-- The payload is bits 5:0 (R13). -/
theorem payloadOf_toNat (b : Byte) : (payloadOf b).toNat = b.toNat % 64 := by
  simp [payloadOf, BitVec.extractLsb'_toNat]

/-- A byte up to `3F` is its payload under the tag `00` (R13, R97). -/
theorem append_payloadOf_of_le {b : Byte} (hb : b.toNat ≤ 0x3F) : 0b00#2 ++ payloadOf b = b := by
  apply BitVec.eq_of_toNat_eq
  rw [append_toNat, payloadOf_toNat, BitVec.toNat_ofNat]
  omega

/-- A byte that names INDEX is at most `3F` (R93). -/
theorem toNat_le_of_opOf_index {t : Bool} {b : Byte} (h : opOf t b = .index) : b.toNat ≤ 0x3F := by
  have hlt := (payloadOf b).isLt
  rw [← eq_of_opOf_index t b h, append_toNat, BitVec.toNat_ofNat]
  omega

/-- At the target a first byte from `40` on raises `ReadingMorePixels` (R176, R181). -/
theorem Dec.firstByte_atTarget_other {d : Dec} {b : Byte} (hc : d.count = d.target) (hb : 0x3F < b.toNat) :
    d.firstByte b = (d.raise .readingMorePixels, []) := by
  unfold Dec.firstByte
  split
  case h_1 | h_2 | h_6 | h_7 => exact Dec.orOverflow_at hc _
  case h_3 => exact Dec.runOp_over (by rw [hc]; omega)
  case h_4 hop => exact absurd (toNat_le_of_opOf_index hop) (Nat.not_le.2 hb)
  case h_5 hop =>
    rw [eq_of_opOf_endMarker _ b hop] at hb
    cases hb

/-- Settles O13: up to `3F` a first byte is the INDEX row at the target, and from `40` on it raises. -/
theorem onlyEndStartsAtTarget : Obligations.OnlyEndStartsAtTarget := by
  refine ⟨fun s b h hc => ?_, fun s i h hc => exec_index_atTarget h hc i⟩
  by_cases hb : b.toNat ≤ 0x3F
  · have hev := (event_decByte_index h.start (payloadOf b)).trans (exec_index_atTarget h hc _)
    have hpayload : (payloadOf b).toNat = b.toNat := (payloadOf_toNat b).trans (Nat.mod_eq_of_lt (by omega))
    rw [append_payloadOf_of_le hb, hpayload] at hev
    rw [hev, if_pos hb]
  · rw [event_decByte_of_start h.start, Dec.firstByte_atTarget_other (d := s.dec.accept 1) hc (by omega),
      putAll_silent h.room rfl, if_neg (by omega), if_neg hb]
    rfl

end Sys2Proof.Machine
end

section
/-! PROOFS. A byte of a pending op, bytes that raise an error, and DEC_START (42_decoder.md R170 to R175, R183;
60_exceptions.md R214, R215). -/

namespace Sys2Proof.Machine

/-! ### Bytes of a pending op -/

/-- With an op pending a byte is an operand (R172, R174). -/
theorem event_decByte_of_pending {s : State} (hst : s.dec.st = .body) (hop : s.dec.op ≠ .none) (b : Byte) :
    event (.decByte b) s = putAll s ((s.dec.accept 1).operand b) := by
  rw [event, decByte, Dec.byte_of_pending hst hop]

/-- The byte END expects, as a number (R183). -/
theorem ne_endExpected_iff {b : Byte} {n : Nat} : b.toNat ≠ (if n < 6 then 0 else 1) ↔ b ≠ endExpected n := by
  unfold endExpected
  split <;> simp [← BitVec.toNat_inj]

/-- Settles O17: the three answers of `EndByte`. -/
theorem endByteChecked : Obligations.EndByteChecked := by
  intro s b hst hop _ hroom
  rw [event_decByte_of_pending hst (by simp [hop]), Dec.operand_endm (d := s.dec.accept 1) hop,
    putAll_silent hroom (Dec.endByte_inpos _ b)]
  by_cases hb : b = endExpected s.dec.opn
  · rw [if_neg (mt ne_endExpected_iff.1 (not_not.2 hb))]
    by_cases hlast : s.dec.opn = 6
    · rw [Dec.endByte_last (d := s.dec.accept 1) hb hlast, if_pos hlast, Dec.accept_opn, hlast]
      rfl
    · rw [Dec.endByte_right (d := s.dec.accept 1) hb hlast, if_neg hlast]
      rfl
  · rw [Dec.endByte_wrong (d := s.dec.accept 1) hb, if_pos (ne_endExpected_iff.2 hb)]
    rfl

/-- The last operand byte delivers its op's pixel (R173, R174, R175, R182). -/
theorem event_decByte_of_lastOperand {s : State} {p : Pixel} (h : s.dec.InOperands)
    (hn : s.dec.opn + 1 = need s.dec.op) (hroom : s.dec.inpos.toNat + 1 < posMax) (b : Byte)
    (hp : ((s.dec.accept 1).storeOperand b).opPixel = p) :
    ∃ t, event (.decByte b) s = .next t ∧ s.Delivered t 1 p true := by
  obtain ⟨hst, hop, hend⟩ := h
  obtain ⟨t, hput, hdelivered, -⟩ :=
    putAll_deliver (d := { (s.dec.accept 1).storeOperand b with op := .none }) p true hroom rfl rfl rfl rfl rfl rfl
      ⟨rfl, rfl, rfl, rfl, rfl, rfl, rfl⟩
  rw [event_decByte_of_pending hst hop, Dec.operand_last (d := s.dec.accept 1) hend hn, Dec.completeOp, hp]
  exact ⟨t, hput, hdelivered⟩

/-- Settles O18: an operand byte is stored, and the last one makes its op's pixel from the bytes stored. -/
theorem operandByteIsNeverATag : Obligations.OperandByteIsNeverATag := by
  refine ⟨fun s b hst hop hn hroom => ?_, ?_, ?_, ?_⟩
  · obtain ⟨hnone, hend⟩ : s.dec.op ≠ .none ∧ s.dec.op ≠ .endm := by
      rcases hop with hop | hop | hop <;> simp [hop]
    rw [event_decByte_of_pending hst hnone, Dec.operand_more (d := s.dec.accept 1) hend hn.ne, putAll_silent hroom rfl]
    rfl
  all_goals
    intro s b hst hop hn hroom
    have hpending : s.dec.InOperands := ⟨hst, by simp [hop], by simp [hop]⟩
    exact event_decByte_of_lastOperand hpending (by simp [hop, hn, need]) hroom b (by simp [Dec.opPixel, hop, hn])

/-! ### Bytes that raise an error -/

/-- If the answer `r` is in ERROR, it puts nothing and keeps the cache, the previous pixel and the count of `d`
(R214, R215). -/
def Dec.FailsSilently (d : Dec) (r : Dec × List Pixel) : Prop :=
  r.1.st = .error → r.2 = [] ∧ r.1.cache = d.cache ∧ r.1.prev = d.prev ∧ r.1.count = d.count

theorem Dec.failsSilently_raise (d : Dec) (x : ErrCode) : d.FailsSilently (d.raise x, []) :=
  fun _ => ⟨rfl, rfl, rfl, rfl⟩

/-- An answer that is not in ERROR has not failed. -/
theorem Dec.failsSilently_of_st_ne {d : Dec} {r : Dec × List Pixel} (h : r.1.st ≠ .error) : d.FailsSilently r :=
  fun hst => absurd hst h

section
variable {d : Dec} (hst : d.st ≠ .error)
include hst

theorem Dec.failsSilently_orOverflow {r : Dec × List Pixel} (hr : r.1.st = d.st) :
    d.FailsSilently (d.orOverflow r) := by
  unfold Dec.orOverflow
  split
  · exact Dec.failsSilently_raise d _
  · exact Dec.failsSilently_of_st_ne (by rwa [hr])

theorem Dec.failsSilently_runOp (n : BitVec 6) : d.FailsSilently (d.runOp n) := by
  unfold Dec.runOp
  split
  · exact Dec.failsSilently_raise d _
  · exact Dec.failsSilently_of_st_ne hst

theorem Dec.failsSilently_indexOp (i : BitVec 6) : d.FailsSilently (d.indexOp i) := by
  unfold Dec.indexOp
  repeat' split
  · exact Dec.failsSilently_of_st_ne hst
  · exact Dec.failsSilently_raise d _
  · exact Dec.failsSilently_of_st_ne hst

theorem Dec.failsSilently_firstByte (b : Byte) : d.FailsSilently (d.firstByte b) := by
  unfold Dec.firstByte
  split
  case h_1 | h_2 | h_6 | h_7 => exact Dec.failsSilently_orOverflow hst rfl
  case h_3 => exact Dec.failsSilently_runOp hst _
  case h_4 => exact Dec.failsSilently_indexOp hst _
  case h_5 => exact Dec.failsSilently_of_st_ne hst

theorem Dec.failsSilently_endByte (b : Byte) : d.FailsSilently (d.endByte b, []) := by
  unfold Dec.endByte
  repeat' split
  · exact Dec.failsSilently_raise d _
  · exact Dec.failsSilently_of_st_ne (by simp)
  · exact Dec.failsSilently_of_st_ne hst

theorem Dec.failsSilently_operand (b : Byte) : d.FailsSilently (d.operand b) := by
  unfold Dec.operand
  repeat' split
  · exact Dec.failsSilently_endByte hst b
  · exact Dec.failsSilently_of_st_ne hst
  · exact Dec.failsSilently_of_st_ne hst

end

/-- A header byte puts nothing and writes none of these fields (R122 to R126). -/
theorem Dec.failsSilently_headerByte (d : Dec) (b : Byte) : d.FailsSilently (d.headerByte b, []) := by
  unfold Dec.headerByte Dec.checkHeader
  repeat' split
  all_goals exact fun _ => ⟨rfl, rfl, rfl, rfl⟩

/-- A byte that raises an error leaves what is decoded as it was, whatever state takes it (R215). -/
theorem Dec.failsSilently_byte {d : Dec} (hst : d.st ≠ .error) (b : Byte) : d.FailsSilently (d.byte b) := by
  unfold Dec.byte Dec.bodyByte
  repeat' split
  case h_1 => exact Dec.failsSilently_headerByte d b
  case isTrue => exact Dec.failsSilently_firstByte (d := d.accept 1) hst b
  case isFalse => exact Dec.failsSilently_operand (d := d.accept 1) hst b
  case h_3 | h_4 | h_5 => exact Dec.failsSilently_of_st_ne hst

/-- Settles O57: a byte that raises is one that was accepted, and it fails silently. -/
theorem failingByteOutputsNothing : Obligations.FailingByteOutputsNothing := by
  intro s t b hst h herr
  obtain ⟨-, rfl⟩ := decByte_next h
  have haccepts : s.dec.accepts = true := by
    by_contra hacc
    rw [Dec.byte_of_not_accepts b (by simpa using hacc)] at herr
    exact hst herr
  have hinpos := Dec.byte_inpos s.dec b
  rw [if_pos haccepts] at hinpos
  obtain ⟨hput, hcache, hprev, hcount⟩ := Dec.failsSilently_byte hst b herr
  exact ⟨by simp [hput], hcache, hprev, hcount, hinpos⟩

/-! ### DEC_START -/

/-- Settles O28: what `Dec.start` sets, and the two states that refuse it. -/
theorem decStartSetsFreshDecode : Obligations.DecStartSetsFreshDecode := by
  refine ⟨fun s hheader hbody => ?_, fun s hst => ?_⟩
  · exact ⟨_, decStart_of_not_busy hheader hbody, ⟨rfl, rfl, rfl, rfl⟩, rfl, rfl, rfl, rfl, rfl, rfl, rfl, rfl, rfl,
      rfl, rfl, Memory.read_cleared, rfl, rfl, rfl, rfl, rfl, rfl⟩
  · rcases hst with hst | hst <;> simp only [event, decStart, hst]

end Sys2Proof.Machine
end
